-- ==== Sys2Proof/Word.lean ====
section
/-! DEFINITION. Word.lean: the value types of the curve255 core (00_scope.md R7, R8). -/

namespace Sys2Proof

/-- A key value: a 256-bit vector, bit 0 least significant (R7, R8). -/
abbrev Key := BitVec 256

/-- A value of the 32-bit host bus (R5 `BUS_W`, R75); also a command word (R100). -/
abbrev Word := BitVec 32

/-- A byte offset within the block's 256-byte register window (R71, R80). -/
abbrev Offset := BitVec 8

end Sys2Proof
end

