-- ==== Sys2Proof/Syntax.lean ====
section
/-! DEFINITION. Syntax.lean: the 24 commands of 30_encoding.md R105, one constructor per row of the opcode table. -/

namespace Sys2Proof

/-- A key register index: K[0] .. K[15], none of them special (10_state.md R31, 30_encoding.md R101). -/
abbrev KReg := Fin 16

/-- A decoded command. Operands stand in the order of the syntax column of 30_encoding.md R105: destination first, then
RA, RB, RC, then the immediate. A point operand is named by its X register (R104); `Instr.wellFormed` says which
values a decoded command may hold. -/
inductive Instr where
  /-- 0x00 `NOP` (R260) -/
  | nop
  /-- 0x01 `FADD kd, ka, kb` (R141) -/
  | fadd (rd ra rb : KReg)
  /-- 0x02 `FSUB kd, ka, kb` (R142) -/
  | fsub (rd ra rb : KReg)
  /-- 0x03 `FMUL kd, ka, kb` (R143) -/
  | fmul (rd ra rb : KReg)
  /-- 0x04 `FSQR kd, ka` (R145) -/
  | fsqr (rd ra : KReg)
  /-- 0x05 `FMULS kd, ka` (R146) -/
  | fmuls (rd ra : KReg)
  /-- 0x06 `FINV kd, ka` (R150) -/
  | finv (rd ra : KReg)
  /-- 0x10 `PDBL kd:kd+1, ka:ka+1` (R181) -/
  | pdbl (rd ra : KReg)
  /-- 0x11 `PDADD kd:kd+1, ka:ka+1, kb:kb+1, kc` (R183) -/
  | pdadd (rd ra rb rc : KReg)
  /-- 0x12 `CSWAP ka, kb, kc, #bit` (R186) -/
  | cswap (ra rb rc : KReg) (bit : BitVec 8)
  /-- 0x13 `LSTEP kd:kd+1, ka:ka+1, kb, kc, #bit` (R189) -/
  | lstep (rd ra rb rc : KReg) (bit : BitVec 8)
  /-- 0x14 `SMUL kd, ka, kb` (R193) -/
  | smul (rd ra rb : KReg)
  /-- 0x20 `ISZERO ka` (R230) -/
  | iszero (ra : KReg)
  /-- 0x21 `CMP ka, kb` (R231) -/
  | cmp (ra rb : KReg)
  /-- 0x22 `KVALID ka` (R234) -/
  | kvalid (ra : KReg)
  /-- 0x30 `MOV kd, ka` (R261) -/
  | mov (rd ra : KReg)
  /-- 0x31 `LDI kd, #imm` (R262) -/
  | ldi (rd : KReg) (imm : BitVec 8)
  /-- 0x32 `LDC kd, #idx` (R263) -/
  | ldc (rd : KReg) (idx : BitVec 8)
  /-- 0x40 `GETBIT ka, #bit` (R265) -/
  | getbit (ra : KReg) (bit : BitVec 8)
  /-- 0x41 `SETBIT kd, #bit` (R266) -/
  | setbit (rd : KReg) (bit : BitVec 8)
  /-- 0x42 `GETBYTE ka, #byte` (R267) -/
  | getbyte (ra : KReg) (byte : BitVec 8)
  /-- 0x43 `SETBYTE kd, #byte` (R268) -/
  | setbyte (rd : KReg) (byte : BitVec 8)
  /-- 0x44 `GETWORD ka, #word` (R271) -/
  | getword (ra : KReg) (word : BitVec 8)
  /-- 0x45 `SETWORD kd, #word` (R270) -/
  | setword (rd : KReg) (word : BitVec 8)
  deriving DecidableEq, Repr

end Sys2Proof
end

