-- ==== Sys2Proof/Machine/State.lean ====
section
/-! DEFINITION. Machine/State.lean: the architectural state of one block (10_state.md R30), the outside world's side of
it (the agenda of events and what the host has read), the reasons a step can stop, and the state after reset (70 R352). -/

namespace Sys2Proof.Machine

/-- The size of a bus access. Only a 32-bit access is supported (20_memory.md R77); the bus has 32 data bits (R5). -/
inductive AccessSize where
  | byte
  | half
  | word
  deriving DecidableEq, Repr

/-- One host transaction at an offset within the window (20_memory.md R72, R73). -/
inductive BusAccess where
  | read (off : Offset) (size : AccessSize)
  | write (off : Offset) (size : AccessSize) (v : Word)
  deriving DecidableEq, Repr

/-- One atomic event (60_exceptions.md R316, 70 R371). -/
inductive Event where
  /-- a bus transaction of the host -/
  | bus (a : BusAccess)
  /-- the pending command completes; where none is pending the event is not enabled and nothing happens -/
  | completion
  /-- the host polls STATUS until BUSY reads 0 (30_encoding.md R110 `WAITIDLE`); `polls` is how many further polls it
  makes before a pending command completes (`LAT` as data, 70 R362; DESIGN CHOICE, safe, log entry 16) -/
  | waitIdle (polls : Nat)
  /-- `rst_n` is asserted and released (70 R350); `lost` is the host transaction it coincided with, if any (R316) -/
  | reset (lost : Option BusAccess)
  deriving DecidableEq, Repr

/-- The state: one field per row of R30, then three fields of the model's own for the world outside the block (log
entries 1, 2 and 3), which no rule counts as state of the block. -/
structure State where
  /-- `K[0..15]` (R31) -/
  K : Vector Key 16
  /-- `DATA` (R37) -/
  data : Word
  /-- `FLAG`, STATUS[3] (R35) -/
  flag : Bool
  /-- `CMPR`, STATUS[5:4] (R36) -/
  cmpr : BitVec 2
  /-- `BUSY`, STATUS[0] (R38) -/
  busy : Bool
  /-- `DONE`, STATUS[1] (R39) -/
  done : Bool
  /-- `ERR`, STATUS[2] (R40) -/
  err : Bool
  /-- `ERRCODE`, STATUS[11:8] (R40) -/
  errcode : BitVec 4
  /-- `IE`, CTRL[0] (R42) -/
  ie : Bool
  /-- `PEND`: empty, or the decoded pending command (R49) -/
  pend : Option Instr
  /-- the model's own: the events still to come, in the order they happen (R82, R316, R371) -/
  agenda : List Event
  /-- the model's own: what the host has read, oldest first, as (offset, value) -/
  reads : List (Offset × Word)
  /-- the model's own: how many free values have been drawn (`Config.lostReadValue`) -/
  draws : Nat
  deriving DecidableEq, Repr

/-- The machine faults nowhere: no command fails once accepted (60_exceptions.md R313), an interface error is recorded in
STATUS and is a next state (R311), and there is no trap (R317). The type has no constructor. -/
inductive Fault where
  deriving DecidableEq, Repr

/-- Why a step gives no meaning. -/
inductive Refusal where
  /-- raised by an arm of `exec` whose command has no meaning in the model yet; safe. No arm does so. -/
  | notModelled (mnemonic : String)
  /-- raised by the completion of a pending command that no command word decodes to (30_encoding.md R107), and by LDC
  of an index the constant ROM lacks (R47). No run reaches either: `Issue` accepts decoded commands only (R312). Safe. -/
  | illFormedCommand
  deriving DecidableEq, Repr

/-- The outcome of a command or of an event. -/
abbrev Result := Host.Outcome State Fault Refusal

/-- The reset value of every state field (70 R352); nothing pending, no event to come, nothing read. -/
def State.reset : State where
  K := Vector.replicate 16 0
  data := 0
  flag := false
  cmpr := 0
  busy := false
  done := false
  err := false
  errcode := 0
  ie := false
  pend := none
  agenda := []
  reads := []
  draws := 0

end Sys2Proof.Machine
end

