-- ==== Sys2Proof/Machine/Flags.lean ====
section
/-! DEFINITION. Machine/Flags.lean: every flag computation of the spec: FLAG (10_state.md R35) and CMPR (R36). -/

namespace Sys2Proof.Machine

/-- FLAG <- b (R35). -/
def State.setFlag (s : State) (b : Bool) : State := { s with flag := b }

/-- CMPR <- c (R36). -/
def State.setCmpr (s : State) (c : BitVec 2) : State := { s with cmpr := c }

/-- ISZERO's verdict: the raw value is zero (42_compare_validate.md R230). -/
def isZero (x : Key) : Bool := decide (x.toNat = 0)

/-- CMP's FLAG: the raw values are equal (R231). -/
def isEqual (x y : Key) : Bool := decide (x.toNat = y.toNat)

/-- CMP's CMPR: 00 equal, 01 less, 10 greater, unsigned (R36, R231). -/
def compareCode (x y : Key) : BitVec 2 :=
  if x.toNat = y.toNat then 0b00 else if x.toNat < y.toNat then 0b01 else 0b10

/-- KVALID's verdict over a table: safe unless the value equals an entry (R234, R235). -/
def isSafe (table : List Key) (x : Key) : Bool := !table.any (fun c => decide (x.toNat = c.toNat))

/-- R236's binary search between entries lo and hi, with a bound on the comparisons left; answers whether the value is
safe and how many comparisons were made. `none` where the bound runs out. -/
def searchTable (table : List Key) (x : Key) : Nat → Int → Int → Nat → Option (Bool × Nat)
  | 0, lo, hi, n => if lo ≤ hi then none else some (true, n)
  | fuel + 1, lo, hi, n =>
    if lo ≤ hi then
      let mid := (lo + hi) / 2
      match table[mid.toNat]? with
      | none => none
      | some c =>
        if x.toNat = c.toNat then some (false, n + 1)
        else if x.toNat < c.toNat then searchTable table x fuel lo (mid - 1) (n + 1)
        else searchTable table x fuel (mid + 1) hi (n + 1)
    else some (true, n)

/-- R236: the reference search over a table of twelve entries, with at most four comparisons. -/
def searchVerdict (table : List Key) (x : Key) : Option (Bool × Nat) := searchTable table x 4 0 11 0

end Sys2Proof.Machine
end

