-- ==== Sys2Proof/Machine/Operands.lean ====
section
/-! DEFINITION. Machine/Operands.lean: every operand form of 30_encoding.md R100 to R105: key registers, point pairs, and
the bits, bytes and 32-bit words within a key (20_memory.md R74, 43_register_access.md R264). -/

namespace Sys2Proof.Machine

/-! ### Key registers (10_state.md R31) -/

/-- `K[i]`: no register is hardwired, banked or aliased (R31). -/
def State.readK (s : State) (r : KReg) : Key := s.K[r.val]

/-- `K[i] <- v`. -/
def State.writeK (s : State) (r : KReg) (v : Key) : State := { s with K := s.K.set r.val v r.isLt }

/-! ### Point pairs (30_encoding.md R104) -/

/-- A projective point (X : Z) (41_ladder.md R180). -/
structure Point where
  X : Key
  Z : Key
  deriving DecidableEq, Repr

/-- The register that holds Z when `r` holds X (R104). -/
def pairZ (r : KReg) : KReg := r + 1

/-- The point in the pair K[r], K[r+1]. -/
def State.readPoint (s : State) (r : KReg) : Point := ⟨s.readK r, s.readK (pairZ r)⟩

/-- K[r], K[r+1] <- the point. -/
def State.writePoint (s : State) (r : KReg) (q : Point) : State := (s.writeK r q.X).writeK (pairZ r) q.Z

/-! ### Bits, bytes and words of a key (R264) -/

/-- Bit i of a key. -/
def keyBit (x : Key) (i : Nat) : Bool := x.getLsbD i

/-- Byte b of a key: bits 8b+7 .. 8b. -/
def keyByte (x : Key) (b : Nat) : BitVec 8 := x.extractLsb' (8 * b) 8

/-- Word w of a key: bits 32w+31 .. 32w. -/
def keyWord (x : Key) (w : Nat) : Word := x.extractLsb' (32 * w) 32

/-- The key with its bits lo+n-1 .. lo replaced by `v`. -/
def setField {n : Nat} (x : Key) (lo : Nat) (v : BitVec n) : Key :=
  (x &&& ~~~((BitVec.allOnes n).setWidth 256 <<< lo)) ||| (v.setWidth 256 <<< lo)

/-- The key with bit i replaced (R266). -/
def setKeyBit (x : Key) (i : Nat) (v : Bool) : Key := setField x i (BitVec.ofBool v)

/-- The key with byte b replaced (R268). -/
def setKeyByte (x : Key) (b : Nat) (v : BitVec 8) : Key := setField x (8 * b) v

/-- The key with word w replaced (R270). -/
def setKeyWord (x : Key) (w : Nat) (v : Word) : Key := setField x (32 * w) v

/-! ### Operands taken from DATA (10_state.md R37) -/

/-- The bit SETBIT writes, DATA[0] (R266). -/
def State.dataBit (s : State) : Bool := s.data.getLsbD 0

/-- The byte SETBYTE writes, DATA[7:0] (R268). -/
def State.dataByte (s : State) : BitVec 8 := s.data.extractLsb' 0 8

/-- DATA <- v: the result port of GETBIT, GETBYTE and GETWORD, and the host's write (R37). -/
def State.setData (s : State) (v : Word) : State := { s with data := v }

end Sys2Proof.Machine
end

