-- ==== Sys2Proof/WellFormed.lean ====
section
/-! DEFINITION. WellFormed.lean: which operand values a command may hold (30_encoding.md R102, R104, R105). -/

namespace Sys2Proof

/-- The register may be the X register of a point pair: it is even (R104). -/
def KReg.isPair (r : KReg) : Bool := r.val % 2 == 0

/-- The operand checks of R105's table: point-pair fields even, LSTEP's two pairs distinct, and the immediates in the
range R102 gives them. -/
def Instr.wellFormed : Instr → Bool
  | .nop => true
  | .fadd _ _ _ => true
  | .fsub _ _ _ => true
  | .fmul _ _ _ => true
  | .fsqr _ _ => true
  | .fmuls _ _ => true
  | .finv _ _ => true
  | .pdbl rd ra => KReg.isPair rd && KReg.isPair ra
  | .pdadd rd ra rb _ => KReg.isPair rd && KReg.isPair ra && KReg.isPair rb
  | .cswap _ _ _ _ => true
  | .lstep rd ra _ _ _ => KReg.isPair rd && KReg.isPair ra && rd != ra
  | .smul _ _ _ => true
  | .iszero _ => true
  | .cmp _ _ => true
  | .kvalid _ => true
  | .mov _ _ => true
  | .ldi _ _ => true
  | .ldc _ idx => decide (idx.toNat ≤ 14)
  | .getbit _ _ => true
  | .setbit _ _ => true
  | .getbyte _ byte => decide (byte.toNat ≤ 31)
  | .setbyte _ byte => decide (byte.toNat ≤ 31)
  | .getword _ word => decide (word.toNat ≤ 7)
  | .setword _ word => decide (word.toNat ≤ 7)

end Sys2Proof
end

