-- ==== Sys2Proof/Decode.lean ====
section
/-! DEFINITION. Decode.lean: the command format, the decoder, the encoder and the assembler text
(30_encoding.md R100 to R109). -/

namespace Sys2Proof

/-! ### The six fields of a command word (R100, R101, R102) -/

/-- OPC, bits 31:24. -/
def opcField (w : Word) : BitVec 8 := w.extractLsb' 24 8
/-- RD, bits 23:20. -/
def rdField (w : Word) : KReg := (w.extractLsb' 20 4).toFin
/-- RA, bits 19:16. -/
def raField (w : Word) : KReg := (w.extractLsb' 16 4).toFin
/-- RB, bits 15:12. -/
def rbField (w : Word) : KReg := (w.extractLsb' 12 4).toFin
/-- RC, bits 11:8. -/
def rcField (w : Word) : KReg := (w.extractLsb' 8 4).toFin
/-- IMM, bits 7:0. -/
def immField (w : Word) : BitVec 8 := w.extractLsb' 0 8

/-- The word with the given fields (R100). -/
def packWord (opc : BitVec 8) (rd ra rb rc : KReg) (imm : BitVec 8) : Word :=
  opc ++ (BitVec.ofFin rd : BitVec 4) ++ (BitVec.ofFin ra : BitVec 4) ++ (BitVec.ofFin rb : BitVec 4) ++
    (BitVec.ofFin rc : BitVec 4) ++ imm

/-! ### The opcode table (R105) -/

/-- How a command uses a register field: `-`, a register, or `P` (R103, R104, R105). -/
inductive FieldUse where
  | unused
  | reg
  | pair
  deriving DecidableEq, Repr

/-- The value is one the field's use admits (R103, R104). -/
def FieldUse.admits : FieldUse → KReg → Bool
  | .unused, r => r == 0
  | .reg, _ => true
  | .pair, r => r.val % 2 == 0

/-- One row of R105. `immMax` is the greatest legal IMM (R102; 0 where IMM is unused), `distinct` the extra check
RD != RA. -/
structure OpRow where
  opc : BitVec 8
  rd : FieldUse
  ra : FieldUse
  rb : FieldUse
  rc : FieldUse
  immMax : Nat
  distinct : Bool
  build : KReg → KReg → KReg → KReg → BitVec 8 → Instr

/-- R105, opcode group 0x0_: NOP and field arithmetic. -/
def opRowsField : List OpRow :=
  [ ⟨0x00, .unused, .unused, .unused, .unused, 0, false, fun _ _ _ _ _ => .nop⟩,
    ⟨0x01, .reg, .reg, .reg, .unused, 0, false, fun d a b _ _ => .fadd d a b⟩,
    ⟨0x02, .reg, .reg, .reg, .unused, 0, false, fun d a b _ _ => .fsub d a b⟩,
    ⟨0x03, .reg, .reg, .reg, .unused, 0, false, fun d a b _ _ => .fmul d a b⟩,
    ⟨0x04, .reg, .reg, .unused, .unused, 0, false, fun d a _ _ _ => .fsqr d a⟩,
    ⟨0x05, .reg, .reg, .unused, .unused, 0, false, fun d a _ _ _ => .fmuls d a⟩,
    ⟨0x06, .reg, .reg, .unused, .unused, 0, false, fun d a _ _ _ => .finv d a⟩ ]

/-- R105, opcode group 0x1_: the ladder. -/
def opRowsLadder : List OpRow :=
  [ ⟨0x10, .pair, .pair, .unused, .unused, 0, false, fun d a _ _ _ => .pdbl d a⟩,
    ⟨0x11, .pair, .pair, .pair, .reg, 0, false, fun d a b c _ => .pdadd d a b c⟩,
    ⟨0x12, .unused, .reg, .reg, .reg, 255, false, fun _ a b c i => .cswap a b c i⟩,
    ⟨0x13, .pair, .pair, .reg, .reg, 255, true, fun d a b c i => .lstep d a b c i⟩,
    ⟨0x14, .reg, .reg, .reg, .unused, 0, false, fun d a b _ _ => .smul d a b⟩ ]

/-- R105, opcode groups 0x2_ and 0x3_: comparison and validation, register transfer. -/
def opRowsCompare : List OpRow :=
  [ ⟨0x20, .unused, .reg, .unused, .unused, 0, false, fun _ a _ _ _ => .iszero a⟩,
    ⟨0x21, .unused, .reg, .reg, .unused, 0, false, fun _ a b _ _ => .cmp a b⟩,
    ⟨0x22, .unused, .reg, .unused, .unused, 0, false, fun _ a _ _ _ => .kvalid a⟩,
    ⟨0x30, .reg, .reg, .unused, .unused, 0, false, fun d a _ _ _ => .mov d a⟩,
    ⟨0x31, .reg, .unused, .unused, .unused, 255, false, fun d _ _ _ i => .ldi d i⟩,
    ⟨0x32, .reg, .unused, .unused, .unused, 14, false, fun d _ _ _ i => .ldc d i⟩ ]

/-- R105, opcode group 0x4_: the accessors. -/
def opRowsAccess : List OpRow :=
  [ ⟨0x40, .unused, .reg, .unused, .unused, 255, false, fun _ a _ _ i => .getbit a i⟩,
    ⟨0x41, .reg, .unused, .unused, .unused, 255, false, fun d _ _ _ i => .setbit d i⟩,
    ⟨0x42, .unused, .reg, .unused, .unused, 31, false, fun _ a _ _ i => .getbyte a i⟩,
    ⟨0x43, .reg, .unused, .unused, .unused, 31, false, fun d _ _ _ i => .setbyte d i⟩,
    ⟨0x44, .unused, .reg, .unused, .unused, 7, false, fun _ a _ _ i => .getword a i⟩,
    ⟨0x45, .reg, .unused, .unused, .unused, 7, false, fun d _ _ _ i => .setword d i⟩ ]

/-- The opcode map of R105: 24 rows; every other OPC is illegal (R106). -/
def opTable : List OpRow := opRowsField ++ opRowsLadder ++ opRowsCompare ++ opRowsAccess

/-- The row of an opcode, if R105 has one. -/
def findRow (opc : BitVec 8) : Option OpRow := opTable.find? (fun r => r.opc == opc)

/-- Every operand check of R107 passes for the word. -/
def OpRow.operandsOk (r : OpRow) (w : Word) : Bool :=
  r.rd.admits (rdField w) && r.ra.admits (raField w) && r.rb.admits (rbField w) && r.rc.admits (rcField w) &&
    decide ((immField w).toNat ≤ r.immMax) && !(r.distinct && rdField w == raField w)

/-- What R107's `Decode` yields: a command, ILLOP or ILLOPND. -/
inductive DecodeResult where
  /-- a legal command word -/
  | command (i : Instr)
  /-- the OPC is not in the opcode table (R106) -/
  | illop
  /-- the OPC is legal, some operand field is not (R103, R104, R107) -/
  | illopnd
  deriving DecidableEq, Repr

/-- R107: the decode of a 32-bit word, total. -/
def decode (w : Word) : DecodeResult :=
  match findRow (opcField w) with
  | none => .illop
  | some r =>
    if r.operandsOk w then
      .command (r.build (rdField w) (raField w) (rbField w) (rcField w) (immField w))
    else .illopnd

/-- The command a decode yields, if it yields one. -/
def DecodeResult.command? : DecodeResult → Option Instr
  | .command i => some i
  | .illop => none
  | .illopnd => none

/-- The host's view of the decoder: a command has one 32-bit word, numbered as the table numbers it (R100). -/
def decodeTableWord (nbits w : Nat) : Option Instr :=
  if w < 2 ^ 32 then (decode (BitVec.ofNat 32 (w % 2 ^ nbits))).command? else none

/-! ### The encoder (R100, R105) -/

/-- The word of a command: unused fields zero (R103). -/
def encode : Instr → Word
  | .nop => packWord 0x00 0 0 0 0 0
  | .fadd d a b => packWord 0x01 d a b 0 0
  | .fsub d a b => packWord 0x02 d a b 0 0
  | .fmul d a b => packWord 0x03 d a b 0 0
  | .fsqr d a => packWord 0x04 d a 0 0 0
  | .fmuls d a => packWord 0x05 d a 0 0 0
  | .finv d a => packWord 0x06 d a 0 0 0
  | .pdbl d a => packWord 0x10 d a 0 0 0
  | .pdadd d a b c => packWord 0x11 d a b c 0
  | .cswap a b c i => packWord 0x12 0 a b c i
  | .lstep d a b c i => packWord 0x13 d a b c i
  | .smul d a b => packWord 0x14 d a b 0 0
  | .iszero a => packWord 0x20 0 a 0 0 0
  | .cmp a b => packWord 0x21 0 a b 0 0
  | .kvalid a => packWord 0x22 0 a 0 0 0
  | .mov d a => packWord 0x30 d a 0 0 0
  | .ldi d i => packWord 0x31 d 0 0 0 i
  | .ldc d i => packWord 0x32 d 0 0 0 i
  | .getbit a i => packWord 0x40 0 a 0 0 i
  | .setbit d i => packWord 0x41 d 0 0 0 i
  | .getbyte a i => packWord 0x42 0 a 0 0 i
  | .setbyte d i => packWord 0x43 d 0 0 0 i
  | .getword a i => packWord 0x44 0 a 0 0 i
  | .setword d i => packWord 0x45 d 0 0 0 i

/-! ### Assembler text (R105 syntax column, R109) -/

/-- A key register, `k0` .. `k15`. -/
def asmReg (r : KReg) : String := "k" ++ toString r.val
/-- A point pair, `kn:kn+1`. -/
def asmPair (r : KReg) : String := "k" ++ toString r.val ++ ":k" ++ toString (r.val + 1)
/-- An immediate, `#` and a decimal number. -/
def asmImm (i : BitVec 8) : String := "#" ++ toString i.toNat
/-- One line: the mnemonic in capitals, operands separated by commas. -/
def asmLine (mnemonic : String) (operands : List String) : String :=
  match operands with
  | [] => mnemonic
  | o :: os => mnemonic ++ " " ++ os.foldl (fun acc x => acc ++ ", " ++ x) o

/-- The assembler line of a command. -/
def Instr.toAsm : Instr → String
  | .nop => asmLine "NOP" []
  | .fadd d a b => asmLine "FADD" [asmReg d, asmReg a, asmReg b]
  | .fsub d a b => asmLine "FSUB" [asmReg d, asmReg a, asmReg b]
  | .fmul d a b => asmLine "FMUL" [asmReg d, asmReg a, asmReg b]
  | .fsqr d a => asmLine "FSQR" [asmReg d, asmReg a]
  | .fmuls d a => asmLine "FMULS" [asmReg d, asmReg a]
  | .finv d a => asmLine "FINV" [asmReg d, asmReg a]
  | .pdbl d a => asmLine "PDBL" [asmPair d, asmPair a]
  | .pdadd d a b c => asmLine "PDADD" [asmPair d, asmPair a, asmPair b, asmReg c]
  | .cswap a b c i => asmLine "CSWAP" [asmReg a, asmReg b, asmReg c, asmImm i]
  | .lstep d a b c i => asmLine "LSTEP" [asmPair d, asmPair a, asmReg b, asmReg c, asmImm i]
  | .smul d a b => asmLine "SMUL" [asmReg d, asmReg a, asmReg b]
  | .iszero a => asmLine "ISZERO" [asmReg a]
  | .cmp a b => asmLine "CMP" [asmReg a, asmReg b]
  | .kvalid a => asmLine "KVALID" [asmReg a]
  | .mov d a => asmLine "MOV" [asmReg d, asmReg a]
  | .ldi d i => asmLine "LDI" [asmReg d, asmImm i]
  | .ldc d i => asmLine "LDC" [asmReg d, asmImm i]
  | .getbit a i => asmLine "GETBIT" [asmReg a, asmImm i]
  | .setbit d i => asmLine "SETBIT" [asmReg d, asmImm i]
  | .getbyte a i => asmLine "GETBYTE" [asmReg a, asmImm i]
  | .setbyte d i => asmLine "SETBYTE" [asmReg d, asmImm i]
  | .getword a i => asmLine "GETWORD" [asmReg a, asmImm i]
  | .setword d i => asmLine "SETWORD" [asmReg d, asmImm i]

end Sys2Proof
end

