-- ==== Sys2Proof/Config.lean ====
section
/-! DEFINITION. Config.lean: what an implementation or the platform fixes (00_scope.md R5), and the one free value.

`LIMB_W` has no effect a model can show (R6) and does not appear. `LAT` is left to the agenda of
Machine/State.lean (R362: a model without time lets completion fire at any later step). `UNSAFE_TABLE` is the
type `UnsafeTable` of Machine/Constants.lean, an argument of `execOver`, `stepOver` and `coreOver` (Machine/Events.lean). -/

namespace Sys2Proof

/-- The number of the 256-byte page the platform places the block's window at (20_memory.md R80). It is left
open: nothing constrains it. -/
opaque Config.c255Page : Nat

/-- `C255_BASE`: the window's base address, a multiple of 256 (R5, R80). -/
def Config.c255Base : Nat := 256 * Config.c255Page

/-- FREE VALUE: what a host read that coincides with a reset returns; the argument is the number of such reads so far
(93_implementation_defined.md: "the access is lost; a read returns any value"). Log entry 3. -/
opaque Config.lostReadValue : Nat → Word

end Sys2Proof
end

