-- ==== Sys2Proof/Machine/Constants.lean ====
section
/-! DEFINITION. Machine/Constants.lean: the compile-time constants, the unsafe-point table and the constant ROM
(10_state.md R41, R46 to R48; 42_compare_validate.md R232). None of them is state (R30). -/

namespace Sys2Proof.Machine

/-- The field modulus, 2^255 − 19 (R10). -/
def p : Nat := 0x7fffffffffffffffffffffffffffffffffffffffffffffffffffffffffffffed

/-- The curve's small constant (R46). -/
def a24 : Nat := 121665

/-- `ID_VALUE`, ASCII "C255" (R5, R41). -/
def idValue : Word := 0x43323535

/-- The x-coordinate c8a of a point of order 8 (R232). -/
def c8a : Nat := 0x00b8495f16056286fdb1329ceb8d09da6ac49ff1fae35616aeb8413b7c7aebe0

/-- The x-coordinate c8b of a point of order 8 (R232). -/
def c8b : Nat := 0x57119fd0dd4e22d8868e1c58c45c44045bef839c55b1d0b1248c50a3bc959c5f

/-- `UNSAFE_TABLE` as a parameter of the block: twelve distinct 256-bit values in ascending order (00_scope.md R5,
42_compare_validate.md R232). `execOver`, `stepOver` and `coreOver` take one as an argument. -/
structure UnsafeTable where
  values : List Key
  length_eq : values.length = 12
  ascending : values.Pairwise (fun a b => a.toNat < b.toNat)

/-- The default values, which this hardware takes (R232). -/
def unsafeTable : List Key :=
  [ 0x0000000000000000000000000000000000000000000000000000000000000000,
    0x0000000000000000000000000000000000000000000000000000000000000001,
    0x00b8495f16056286fdb1329ceb8d09da6ac49ff1fae35616aeb8413b7c7aebe0,
    0x57119fd0dd4e22d8868e1c58c45c44045bef839c55b1d0b1248c50a3bc959c5f,
    0x7fffffffffffffffffffffffffffffffffffffffffffffffffffffffffffffec,
    0x7fffffffffffffffffffffffffffffffffffffffffffffffffffffffffffffed,
    0x7fffffffffffffffffffffffffffffffffffffffffffffffffffffffffffffee,
    0x80b8495f16056286fdb1329ceb8d09da6ac49ff1fae35616aeb8413b7c7aebcd,
    0xd7119fd0dd4e22d8868e1c58c45c44045bef839c55b1d0b1248c50a3bc959c4c,
    0xffffffffffffffffffffffffffffffffffffffffffffffffffffffffffffffd9,
    0xffffffffffffffffffffffffffffffffffffffffffffffffffffffffffffffda,
    0xffffffffffffffffffffffffffffffffffffffffffffffffffffffffffffffdb ]

/-- The parameter at its default (R232); log entry 6. -/
def defaultTable : UnsafeTable where
  values := unsafeTable
  length_eq := by decide
  ascending := by decide

/-- `CONST[0..14]` over a table: p, a24, the base point 9, then the table (R47). -/
def constRomOver (table : UnsafeTable) : List Key :=
  BitVec.ofNat 256 p :: BitVec.ofNat 256 a24 :: 9 :: table.values

end Sys2Proof.Machine
end

