-- ==== Sys2Proof/Machine/Ops.lean ====
section
/-! DEFINITION. Machine/Ops.lean: the shared operations of the block: completion, the command error, acceptance, reset,
the host's reads and writes of the register window, and the interrupt line (10_state.md R37 to R50, 20_memory.md R72 to
R79, 60_exceptions.md R310 to R320, 70 R350 to R352). -/

namespace Sys2Proof.Machine

/-! ### Completion and acceptance (10_state.md R50) -/

/-- The end of a completion, after the body's results: BUSY <- 0, DONE <- 1, PEND <- empty. -/
def State.completed (s : State) : State := { s with busy := false, done := true, pend := none }

/-- Acceptance: PEND <- the command, BUSY <- 1, DONE <- 0, and nothing else. -/
def State.accept (s : State) (i : Instr) : State := { s with busy := true, done := false, pend := some i }

/-! ### The command error (60_exceptions.md R310, R311): the block's one exception; it has no trap and no return (R317,
R318) -/

/-- The causes of a command error (R310). -/
inductive ErrCause where
  /-- a write that is not an aligned 32-bit write, or to an unmapped offset -/
  | badacc
  /-- a write to CMD or DATA while BUSY = 1 -/
  | busy
  /-- a CMD word whose OPC is not in the opcode table -/
  | illop
  /-- a CMD word with a legal OPC and an illegal operand field -/
  | illopnd
  deriving DecidableEq, Repr

/-- The code ERRCODE records (R310); 0 is NONE, 5 .. 15 are reserved. -/
def ErrCause.code : ErrCause → BitVec 4
  | .badacc => 1
  | .busy => 2
  | .illop => 3
  | .illopnd => 4

/-- `raise CmdError(code)`: ERR <- 1, ERRCODE <- code, and nothing else (R311). -/
def State.cmdError (s : State) (c : ErrCause) : State := { s with err := true, errcode := c.code }

/-- `Issue(v)`: the checks of R312 in its order, then acceptance. -/
def State.issue (s : State) (v : Word) : State :=
  if s.busy then s.cmdError .busy
  else
    match decode v with
    | .illop => s.cmdError .illop
    | .illopnd => s.cmdError .illopnd
    | .command i => s.accept i

/-! ### Reset (70 R350 to R352) -/

/-- Every state field of the block takes its reset value; a pending command is discarded. The world outside the block
(agenda, reads, draws) is not the block's and stays. -/
def State.blockReset (s : State) : State :=
  { State.reset with agenda := s.agenda, reads := s.reads, draws := s.draws }

/-! ### The register window (10_state.md R41 to R45) -/

/-- What stands at an offset of the window (R45). -/
inductive HostReg where
  | id
  | ctrl
  | status
  | cmd
  | data
  | unmapped
  deriving DecidableEq, Repr

/-- The host register map (R45). -/
def hostRegAt (off : Offset) : HostReg :=
  if off = 0x00 then .id
  else if off = 0x04 then .ctrl
  else if off = 0x08 then .status
  else if off = 0x0C then .cmd
  else if off = 0x10 then .data
  else .unmapped

/-- The access is a 32-bit access at a multiple of 4 (20_memory.md R77). -/
def accessOk (off : Offset) (size : AccessSize) : Bool := size == .word && off.extractLsb' 0 2 == 0

/-- STATUS as read: ERRCODE ++ 00 ++ CMPR ++ FLAG ++ ERR ++ DONE ++ BUSY, zero-extended (R43). -/
def State.statusWord (s : State) : Word :=
  (s.errcode ++ (0 : BitVec 2) ++ s.cmpr ++ BitVec.ofBool s.flag ++ BitVec.ofBool s.err ++
    BitVec.ofBool s.done ++ BitVec.ofBool s.busy).setWidth 32

/-- CTRL as read: IE in bit 0, SRST reads 0 (R42). -/
def State.ctrlWord (s : State) : Word := (BitVec.ofBool s.ie).setWidth 32

/-- `BusRead(off)`: the value a read returns (20_memory.md R72, R77). -/
def State.busRead (s : State) (off : Offset) (size : AccessSize) : Word :=
  if accessOk off size then
    match hostRegAt off with
    | .id => idValue
    | .ctrl => s.ctrlWord
    | .status => s.statusWord
    | .cmd => 0
    | .data => s.data
    | .unmapped => 0
  else 0

/-- A CTRL write: bit 1 resets the block and bit 0 is then ignored; else IE takes bit 0 (R42, R351). -/
def State.writeCtrl (s : State) (v : Word) : State :=
  if v.getLsbD 1 then s.blockReset else { s with ie := v.getLsbD 0 }

/-- A STATUS write with bit 1 set: DONE <- 0 (R39). -/
def State.clearDone (s : State) : State := { s with done := false }

/-- A STATUS write with bit 2 set: ERR <- 0, ERRCODE <- 0 (R40). -/
def State.clearErr (s : State) : State := { s with err := false, errcode := 0 }

/-- A STATUS write: bit 1 clears DONE, bit 2 clears ERR and ERRCODE, the other bits do nothing (R43). -/
def State.writeStatus (s : State) (v : Word) : State :=
  let s := if v.getLsbD 1 then s.clearDone else s
  if v.getLsbD 2 then s.clearErr else s

/-- A DATA write: refused while BUSY = 1 (R37). -/
def State.writeData (s : State) (v : Word) : State :=
  if s.busy then s.cmdError .busy else { s with data := v }

/-- `BusWrite(off, v)` (20_memory.md R73, R77). -/
def State.busWrite (s : State) (off : Offset) (size : AccessSize) (v : Word) : State :=
  if accessOk off size then
    match hostRegAt off with
    | .id => s
    | .ctrl => s.writeCtrl v
    | .status => s.writeStatus v
    | .cmd => s.issue v
    | .data => s.writeData v
    | .unmapped => s.cmdError .badacc
  else s.cmdError .badacc

/-! ### The host's side of a transaction -/

/-- The host receives the value read at an offset; the block's state does not change (R79). -/
def State.receive (s : State) (off : Offset) (v : Word) : State := { s with reads := s.reads ++ [(off, v)] }

/-- One host transaction (R72, R73). -/
def State.busAccess (s : State) : BusAccess → State
  | .read off size => s.receive off (s.busRead off size)
  | .write off size v => s.busWrite off size v

/-- A transaction that coincides with a reset is lost: a write has no effect, a read returns any value
(60_exceptions.md R316; 93_implementation_defined.md). -/
def State.loseAccess (s : State) : BusAccess → State
  | .read off _ => { s.receive off (Config.lostReadValue s.draws) with draws := s.draws + 1 }
  | .write _ _ _ => s

/-- A hardware reset, with the transaction it coincides with (R316, R350). -/
def State.hardReset (s : State) (lost : Option BusAccess) : State :=
  match lost with
  | none => s.blockReset
  | some a => s.blockReset.loseAccess a

/-! ### The interrupt line (60_exceptions.md R319, R320) -/

/-- irq = IE & (DONE | ERR). -/
def State.irq (s : State) : Bool := s.ie && (s.done || s.err)

end Sys2Proof.Machine
end

