-- ==== Sys2Proof/Machine/Access.lean ====
section
/-! DEFINITION. Machine/Access.lean: the completion of the bit, byte and word accessors (43_register_access.md section 2). -/

namespace Sys2Proof.Machine

/-- GETBIT (R265): the bit goes to FLAG and to DATA. -/
def execGetbit (ra : KReg) (bit : BitVec 8) (s : State) : Result :=
  let t := keyBit (s.readK ra) bit.toNat
  .next ((s.setFlag t).setData ((BitVec.ofBool t).setWidth 32)).completed

/-- SETBIT (R266). -/
def execSetbit (rd : KReg) (bit : BitVec 8) (s : State) : Result :=
  .next (s.writeK rd (setKeyBit (s.readK rd) bit.toNat s.dataBit)).completed

/-- GETBYTE (R267). -/
def execGetbyte (ra : KReg) (byte : BitVec 8) (s : State) : Result :=
  .next (s.setData ((keyByte (s.readK ra) byte.toNat).setWidth 32)).completed

/-- SETBYTE (R268). -/
def execSetbyte (rd : KReg) (byte : BitVec 8) (s : State) : Result :=
  .next (s.writeK rd (setKeyByte (s.readK rd) byte.toNat s.dataByte)).completed

/-- GETWORD (R271). -/
def execGetword (ra : KReg) (word : BitVec 8) (s : State) : Result :=
  .next (s.setData (keyWord (s.readK ra) word.toNat)).completed

/-- SETWORD (R270). -/
def execSetword (rd : KReg) (word : BitVec 8) (s : State) : Result :=
  .next (s.writeK rd (setKeyWord (s.readK rd) word.toNat s.data)).completed

end Sys2Proof.Machine
end

