-- ==== Sys2Proof/Machine/Compare.lean ====
section
/-! DEFINITION. Machine/Compare.lean: the completion of the zero test, the comparison and the key validator
(42_compare_validate.md). None of them writes a key register. -/

namespace Sys2Proof.Machine

/-- ISZERO (R230). -/
def execIszero (ra : KReg) (s : State) : Result :=
  .next (s.setFlag (isZero (s.readK ra))).completed

/-- CMP (R231). -/
def execCmp (ra rb : KReg) (s : State) : Result :=
  .next ((s.setCmpr (compareCode (s.readK ra) (s.readK rb))).setFlag (isEqual (s.readK ra) (s.readK rb))).completed

/-- KVALID over a table (R234, R232). -/
def execKvalidOver (table : UnsafeTable) (ra : KReg) (s : State) : Result :=
  .next (s.setFlag (isSafe table.values (s.readK ra))).completed

/-- KVALID (R234), with the table this hardware takes (R232). -/
def execKvalid (ra : KReg) (s : State) : Result := execKvalidOver defaultTable ra s

end Sys2Proof.Machine
end

