-- ==== Sys2Proof/Machine/FieldMath.lean ====
section
/-! DEFINITION. Machine/FieldMath.lean: arithmetic mod p on 256-bit values (40_field.md). Every operand is any 256-bit
value, every result is below p (R140). -/

namespace Sys2Proof.Machine

/-- `int(v)` (00_scope.md R8). -/
def int (v : Key) : Int := (v.toNat : Int)

/-- `modp(n)`: the integer n mod p, in [0, p); n may be negative (R9). -/
def modp (n : Int) : Key := BitVec.ofNat 256 (n % (p : Int)).toNat

/-- `add` (R141). -/
def add (a b : Key) : Key := modp (int a + int b)

/-- `sub` (R142). -/
def sub (a b : Key) : Key := modp (int a - int b)

/-- `mul` (R143). -/
def mul (a b : Key) : Key := modp (int a * int b)

/-- `sqr` (R145). -/
def sqr (a : Key) : Key := modp (int a * int a)

/-- `muls`: multiplication by a24 (R146). -/
def muls (a : Key) : Key := modp (int a * (a24 : Int))

/-- b^e mod m by squaring, reading the exponent's low bit first; `bits` bounds the exponent's length. -/
def powMod (m : Nat) : Nat → Nat → Nat → Nat
  | 0, _, _ => 1 % m
  | bits + 1, b, e =>
    if e % 2 = 1 then b * powMod m bits (b * b % m) (e / 2) % m
    else powMod m bits (b * b % m) (e / 2)

/-- `inv`: a^(p−2) mod p (R150); of a value ≡ 0 it is 0 (R151). -/
def inv (a : Key) : Key := BitVec.ofNat 256 (powMod p 255 a.toNat (p - 2))

/-! ### The spec's reference datapaths, which no command's result depends on -/

/-- `S^n(x)`: n successive squarings (R156). -/
def sqrN : Nat → Key → Key
  | 0, x => x
  | n + 1, x => sqrN n (sqr x)

/-- The reference inversion chain: 254 squarings, 11 multiplications (R156). -/
def invChain (z : Key) : Key :=
  let z2 := sqr z
  let z9 := mul (sqrN 2 z2) z
  let z11 := mul z9 z2
  let z_5_0 := mul (sqr z11) z9
  let z_10_0 := mul (sqrN 5 z_5_0) z_5_0
  let z_20_0 := mul (sqrN 10 z_10_0) z_10_0
  let z_40_0 := mul (sqrN 20 z_20_0) z_20_0
  let z_50_0 := mul (sqrN 10 z_40_0) z_10_0
  let z_100_0 := mul (sqrN 50 z_50_0) z_50_0
  let z_200_0 := mul (sqrN 100 z_100_0) z_100_0
  let z_250_0 := mul (sqrN 50 z_200_0) z_50_0
  mul (sqrN 5 z_250_0) z11

/-- One folding pass at 2^256: 2^256 ≡ 38 (R144). -/
def foldPass (t : Nat) : Nat := if 2 ^ 256 ≤ t then t % 2 ^ 256 + 38 * (t / 2 ^ 256) else t

/-- R144's reference reduction: at most three folding passes, the top-bit correction, one conditional subtraction. -/
def reduceRef (t : Nat) : Nat :=
  let t := foldPass (foldPass (foldPass t))
  let t := t % 2 ^ 255 + 19 * (t / 2 ^ 255)
  if p ≤ t then t - p else t

/-- The source's addition for canonical operands: one conditional subtraction (R147). -/
def addCanonical (a b : Nat) : Nat := if p ≤ a + b then a + b - p else a + b

/-- The source's subtraction for canonical operands: p is added first when b > a (R148). -/
def subCanonical (a b : Nat) : Nat := if a < b then a + p - b else a - b

end Sys2Proof.Machine
end

