-- ==== Sys2Proof/Machine/Field.lean ====
section
/-! DEFINITION. Machine/Field.lean: the completion of each field command (40_field.md). Every body reads its operands
before it writes (10_state.md R50). -/

namespace Sys2Proof.Machine

/-- FADD (R141). -/
def execFadd (rd ra rb : KReg) (s : State) : Result :=
  .next (s.writeK rd (add (s.readK ra) (s.readK rb))).completed

/-- FSUB (R142). -/
def execFsub (rd ra rb : KReg) (s : State) : Result :=
  .next (s.writeK rd (sub (s.readK ra) (s.readK rb))).completed

/-- FMUL (R143). -/
def execFmul (rd ra rb : KReg) (s : State) : Result :=
  .next (s.writeK rd (mul (s.readK ra) (s.readK rb))).completed

/-- FSQR (R145). -/
def execFsqr (rd ra : KReg) (s : State) : Result :=
  .next (s.writeK rd (sqr (s.readK ra))).completed

/-- FMULS (R146). -/
def execFmuls (rd ra : KReg) (s : State) : Result :=
  .next (s.writeK rd (muls (s.readK ra))).completed

/-- FINV (R150, R151). -/
def execFinv (rd ra : KReg) (s : State) : Result :=
  .next (s.writeK rd (inv (s.readK ra))).completed

end Sys2Proof.Machine
end

