-- ==== Sys2Proof/Machine/Curve.lean ====
section
/-! DEFINITION. Machine/Curve.lean: point doubling, differential addition, the conditional swap, the ladder step and the
ladder on projective points (41_ladder.md). -/

namespace Sys2Proof.Machine

/-- R181's body: m = (X+Z)², n = (X−Z)², o = m − n; (n·m : o·(m + a24·o)). -/
def dbl (q : Point) : Point :=
  let m := sqr (add q.X q.Z)
  let n := sqr (sub q.X q.Z)
  let o := sub m n
  ⟨mul n m, mul o (add m (muls o))⟩

/-- R183's body: the points' difference has x-coordinate x1. -/
def dadd (q r : Point) (x1 : Key) : Point :=
  let A := add q.X q.Z
  let B := sub q.X q.Z
  let C := add r.X r.Z
  let D := sub r.X r.Z
  let DA := mul D A
  let CB := mul C B
  ⟨sqr (add DA CB), mul x1 (sqr (sub DA CB))⟩

/-- 256 copies of the selector bit (R186). -/
def swapMask (s : Bool) : Key := BitVec.fill 256 s

/-- R186's masked select: `a` where the mask is 0, `b` where it is 1. -/
def maskedSelect (mask a b : Key) : Key := (a &&& ~~~mask) ||| (b &&& mask)

/-- R186: the two values after the conditional swap. -/
def cswapPair (s : Bool) (a b : Key) : Key × Key :=
  (maskedSelect (swapMask s) a b, maskedSelect (swapMask s) b a)

/-- The conditional swap of two points: the X registers, then the Z registers (R188). -/
def cswapPoints (s : Bool) (q r : Point) : Point × Point :=
  let x := cswapPair s q.X r.X
  let z := cswapPair s q.Z r.Z
  (⟨x.1, z.1⟩, ⟨x.2, z.2⟩)

/-- R189's step in the source's two branches; answers (cur', look'). -/
def ladderStep (cur look : Point) (x1 : Key) (bit : Bool) : Point × Point :=
  if bit then (dadd look cur x1, dbl look) else (dbl cur, dadd look cur x1)

/-- R190's uniform step between two conditional swaps; answers (cur', look'). -/
def ladderStepUniform (cur look : Point) (x1 : Key) (bit : Bool) : Point × Point :=
  let ab := cswapPoints bit cur look
  cswapPoints bit (dbl ab.1) (dadd ab.2 ab.1 x1)

/-- R193's loop over the bits n-1 .. 0 of k, highest first (R195). -/
def ladderLoop (k u : Key) : Nat → Point × Point → Point × Point
  | 0, pts => pts
  | n + 1, pts => ladderLoop k u n (ladderStep pts.1 pts.2 u (keyBit k n))

/-- The index of the highest set bit of a nonzero key (R195). -/
def topBit (k : Key) : Nat := k.toNat.log2

/-- R193: scalar multiplication. The scalar's zero test is raw (R194); neither operand is masked or clamped (R197); a
final Z ≡ 0 gives 0 (R196). -/
def scalarMul (k u : Key) : Key :=
  if k.toNat = 0 then 0
  else
    let start : Point := ⟨u, 1⟩
    let last := (ladderLoop k u (topBit k) (start, dbl start)).1
    mul last.X (inv last.Z)

/-! ### The host's side of X25519, which the block does not perform (R197, R202) -/

/-- The scalar with bits 0, 1, 2 and 255 cleared and bit 254 set. -/
def hostClamp (k : Key) : Key :=
  setKeyBit (setKeyBit (setKeyBit (setKeyBit (setKeyBit k 0 false) 1 false) 2 false) 255 false) 254 true

/-- The u-coordinate with bit 255 cleared. -/
def hostMask (u : Key) : Key := setKeyBit u 255 false

/-- R202: X25519(k, u) is SMUL of the clamped scalar and the masked u. Informative. -/
def hostX25519 (k u : Key) : Key := scalarMul (hostClamp k) (hostMask u)

end Sys2Proof.Machine
end

