-- ==== Sys2Proof/Machine/Ladder.lean ====
section
/-! DEFINITION. Machine/Ladder.lean: the completion of each ladder command (41_ladder.md). -/

namespace Sys2Proof.Machine

/-- PDBL (R181). -/
def execPdbl (rd ra : KReg) (s : State) : Result :=
  .next (s.writePoint rd (dbl (s.readPoint ra))).completed

/-- PDADD (R183). -/
def execPdadd (rd ra rb rc : KReg) (s : State) : Result :=
  .next (s.writePoint rd (dadd (s.readPoint ra) (s.readPoint rb) (s.readK rc))).completed

/-- CSWAP (R186): both registers are written whatever the selected bit is (R187). -/
def execCswap (ra rb rc : KReg) (bit : BitVec 8) (s : State) : Result :=
  let ab := cswapPair (keyBit (s.readK rc) bit.toNat) (s.readK ra) (s.readK rb)
  .next ((s.writeK ra ab.1).writeK rb ab.2).completed

/-- LSTEP (R189): the pair at RD is current, the pair at RA is lookahead. -/
def execLstep (rd ra rb rc : KReg) (bit : BitVec 8) (s : State) : Result :=
  let cl := ladderStep (s.readPoint rd) (s.readPoint ra) (s.readK rb) (keyBit (s.readK rc) bit.toNat)
  .next ((s.writePoint rd cl.1).writePoint ra cl.2).completed

/-- SMUL (R193): RA is the scalar, RB the base x-coordinate. -/
def execSmul (rd ra rb : KReg) (s : State) : Result :=
  .next (s.writeK rd (scalarMul (s.readK ra) (s.readK rb))).completed

end Sys2Proof.Machine
end

