-- ==== Sys2Proof/Machine/Transfer.lean ====
section
/-! DEFINITION. Machine/Transfer.lean: the completion of NOP and the register transfers (43_register_access.md section 1). -/

namespace Sys2Proof.Machine

/-- NOP (R260). -/
def execNop (s : State) : Result := .next s.completed

/-- MOV (R261): the raw value, with no reduction. -/
def execMov (rd ra : KReg) (s : State) : Result :=
  .next (s.writeK rd (s.readK ra)).completed

/-- LDI (R262). -/
def execLdi (rd : KReg) (imm : BitVec 8) (s : State) : Result :=
  .next (s.writeK rd (imm.setWidth 256)).completed

/-- LDC from the ROM over a table (R263, R47). An index above 14 is no command (R107). -/
def execLdcOver (table : UnsafeTable) (rd : KReg) (idx : BitVec 8) (s : State) : Result :=
  match (constRomOver table)[idx.toNat]? with
  | some v => .next (s.writeK rd v).completed
  | none => .refused .illFormedCommand

/-- LDC (R263), with the table this hardware takes (R232). -/
def execLdc (rd : KReg) (idx : BitVec 8) (s : State) : Result := execLdcOver defaultTable rd idx s

end Sys2Proof.Machine
end

