-- ==== Sys2Proof/Machine/Dispatch.lean ====
section
/-! DEFINITION. Machine/Dispatch.lean: the completion of a command, one arm per constructor (10_state.md R50). -/

namespace Sys2Proof.Machine

def exec (i : Instr) (s : State) : Host.Outcome State Fault Refusal :=
  match i with
  | .nop => Sys2Proof.Machine.execNop s
  | .fadd rd ra rb => Sys2Proof.Machine.execFadd rd ra rb s
  | .fsub rd ra rb => Sys2Proof.Machine.execFsub rd ra rb s
  | .fmul rd ra rb => Sys2Proof.Machine.execFmul rd ra rb s
  | .fsqr rd ra => Sys2Proof.Machine.execFsqr rd ra s
  | .fmuls rd ra => Sys2Proof.Machine.execFmuls rd ra s
  | .finv rd ra => Sys2Proof.Machine.execFinv rd ra s
  | .pdbl rd ra => Sys2Proof.Machine.execPdbl rd ra s
  | .pdadd rd ra rb rc => Sys2Proof.Machine.execPdadd rd ra rb rc s
  | .cswap ra rb rc bit => Sys2Proof.Machine.execCswap ra rb rc bit s
  | .lstep rd ra rb rc bit => Sys2Proof.Machine.execLstep rd ra rb rc bit s
  | .smul rd ra rb => Sys2Proof.Machine.execSmul rd ra rb s
  | .iszero ra => Sys2Proof.Machine.execIszero ra s
  | .cmp ra rb => Sys2Proof.Machine.execCmp ra rb s
  | .kvalid ra => Sys2Proof.Machine.execKvalid ra s
  | .mov rd ra => Sys2Proof.Machine.execMov rd ra s
  | .ldi rd imm => Sys2Proof.Machine.execLdi rd imm s
  | .ldc rd idx => Sys2Proof.Machine.execLdc rd idx s
  | .getbit ra bit => Sys2Proof.Machine.execGetbit ra bit s
  | .setbit rd bit => Sys2Proof.Machine.execSetbit rd bit s
  | .getbyte ra byte => Sys2Proof.Machine.execGetbyte ra byte s
  | .setbyte rd byte => Sys2Proof.Machine.execSetbyte rd byte s
  | .getword ra word => Sys2Proof.Machine.execGetword ra word s
  | .setword rd word => Sys2Proof.Machine.execSetword rd word s

end Sys2Proof.Machine
end

