-- ==== Sys2Proof/Machine/Events.lean ====
section
/-! DEFINITION. Machine/Events.lean: what each event does (60_exceptions.md R316, 70 R362), and how the host's macros and
the platform's clock cycles become events (30_encoding.md R110, R316, 20_memory.md R80). -/

namespace Sys2Proof.Machine

/-! ### The table as an argument (00_scope.md R5, 42_compare_validate.md R232) -/

/-- The completion of a command in a block with the given unsafe-point table, which KVALID and LDC alone consult (R237).
`exec` is its instance at the default table, which this hardware takes. -/
def execOver (table : UnsafeTable) (i : Instr) (s : State) : Result :=
  match i with
  | .kvalid ra => execKvalidOver table ra s
  | .ldc rd idx => execLdcOver table rd idx s
  | .nop | .fadd _ _ _ | .fsub _ _ _ | .fmul _ _ _ | .fsqr _ _ | .fmuls _ _ | .finv _ _ | .pdbl _ _ | .pdadd _ _ _ _
  | .cswap _ _ _ _ | .lstep _ _ _ _ _ | .smul _ _ _ | .iszero _ | .cmp _ _ | .mov _ _ | .ldi _ _ | .getbit _ _
  | .setbit _ _ | .getbyte _ _ | .setbyte _ _ | .getword _ _ | .setword _ _ => exec i s

/-! ### One event, with the completions of commands given by `run` (`exec`, or `execOver` of a table) -/

/-- The completion event: enabled only while a command is pending (10_state.md R50); where none is, nothing happens. A
pending command no word decodes to has no meaning (R107, R312). -/
def State.complete (run : Instr → State → Result) (s : State) : Result :=
  match s.pend with
  | none => .next s
  | some i => if i.wellFormed then run i s else .refused .illFormedCommand

/-- One poll of `WAITIDLE`: a STATUS read; the host polls again while bit 0 of the value read is 1, and the pending command
completes once `polls` further polls are made (30_encoding.md R110, 70 R362). -/
def State.pollStatus (s : State) (polls : Nat) : State :=
  let s' := s.receive 0x08 (s.busRead 0x08 .word)
  if (s.busRead 0x08 .word).getLsbD 0 then
    match polls with
    | 0 => { s' with agenda := .completion :: .waitIdle 0 :: s.agenda }
    | n + 1 => { s' with agenda := .waitIdle n :: s.agenda }
  else s'

/-- An event, on the state whose agenda it has been taken from. -/
def State.happen (run : Instr → State → Result) (s : State) : Event → Result
  | .bus a => .next (s.busAccess a)
  | .completion => s.complete run
  | .waitIdle polls => .next (s.pollStatus polls)
  | .reset lost => .next (s.hardReset lost)

/-- The next event: the head of the agenda; when the agenda is empty, the completion of the pending command, the only
event then enabled (weak fairness, 70 R362; log entry 1); else the block stays as it is (R353, R371). -/
def State.advance (run : Instr → State → Result) (s : State) : Result :=
  match s.agenda with
  | [] => s.complete run
  | e :: rest => ({ s with agenda := rest } : State).happen run e

/-- One step of a block with the given unsafe-point table; `step` is its instance at the default table. -/
def stepOver (table : UnsafeTable) (s : State) : Result := s.advance (execOver table)

/-- The machine of a block with the given unsafe-point table; `Sys2Proof.core` is its instance at the default table. -/
def coreOver (table : UnsafeTable) : Host.Core where
  State := State
  Fault := Fault
  Refusal := Refusal
  step := stepOver table
  reset := State.reset

/-! ### Placing a command (log entry 4) -/

/-- The word a host lays on the command port: `nbits` bits of w, at most 32. -/
def placedWord (nbits w : Nat) : Word := BitVec.ofNat 32 (w % 2 ^ nbits)

/-- The state in which the command of word v has just been accepted and completes at the next step. A word that is no
command is instead written to the idle block's CMD at the next step, which refuses it (R312). -/
def State.placeCommand (s : State) (v : Word) : State :=
  match decode v with
  | .command i =>
    let s' := s.accept i
    match s.agenda with
    | [] => s'
    | e :: rest => { s' with agenda := .completion :: e :: rest }
  | .illop => { s with busy := false, pend := none, agenda := .bus (.write 0x0C .word v) :: s.agenda }
  | .illopnd => { s with busy := false, pend := none, agenda := .bus (.write 0x0C .word v) :: s.agenda }

/-! ### Clock cycles (60_exceptions.md R316) -/

/-- What the platform presents in one clock cycle. -/
structure Cycle where
  rstAsserted : Bool
  completes : Bool
  access : Option BusAccess
  deriving DecidableEq, Repr

/-- The orders in which the events of one cycle can be applied (R316): a reset wins and the other events are lost; a
completion comes before a write; the spec gives no order between a completion and a read, so either is possible. -/
def Cycle.orders (c : Cycle) : List (List Event) :=
  if c.rstAsserted then [[.reset c.access]]
  else
    match c.completes, c.access with
    | false, none => [[]]
    | false, some a => [[.bus a]]
    | true, none => [[.completion]]
    | true, some (.write off size v) => [[.completion, .bus (.write off size v)]]
    | true, some (.read off size) =>
      [[.completion, .bus (.read off size)], [.bus (.read off size), .completion]]

/-! ### The window (20_memory.md R80) -/

/-- The offset of a host address within the block's window, if it lies there. -/
def windowOffset (addr : Nat) : Option Offset :=
  if Config.c255Base ≤ addr ∧ addr < Config.c255Base + 256 then some (BitVec.ofNat 8 (addr - Config.c255Base))
  else none

/-! ### Host macros (30_encoding.md R109, R110) -/

/-- `wr CMD, <word>`. -/
def wrCmd (v : Word) : Event := .bus (.write 0x0C .word v)
/-- `wr DATA, <value>`. -/
def wrData (v : Word) : Event := .bus (.write 0x10 .word v)
/-- `rd DATA`. -/
def rdData : Event := .bus (.read 0x10 .word)

/-- DESIGN CHOICE, safe (log entry 16): how one `WAITIDLE` meets the pending command, which the spec leaves to `LAT` and the
host's pace (70 R362). `early`: the command completes before the first poll; else `polls + 1` polls read BUSY = 1 and
then it completes. -/
structure Wait where
  early : Bool
  polls : Nat
  deriving DecidableEq, Repr

/-- `WAITIDLE`. -/
def macroWait (w : Wait) : List Event := (if w.early then [.completion] else []) ++ [.waitIdle w.polls]

/-- `ISSUE <cmd>`: `WAITIDLE`, then the CMD write. -/
def macroIssue (w : Wait) (i : Instr) : List Event := macroWait w ++ [wrCmd (encode i)]

/-- `CLR kd`. -/
def macroClr (w : Wait) (rd : KReg) : List Event := macroIssue w (.ldi rd 0)

/-- `LDK kd, n` for n < 256. -/
def macroLdk (w : Wait) (rd : KReg) (n : BitVec 8) : List Event := macroIssue w (.ldi rd n)

/-- `CSWAPP ka:ka+1, kb:kb+1, kc, #bit`; each of its two waits is free of the other (log entry 16). -/
def macroCswapp (wX wZ : Wait) (ra rb rc : KReg) (bit : BitVec 8) : List Event :=
  macroIssue wX (.cswap ra rb rc bit) ++ macroIssue wZ (.cswap (pairZ ra) (pairZ rb) rc bit)

/-- One word of `LD256`. -/
def macroLoadWord (w : Wait) (rd : KReg) (v : Key) (word : Nat) : List Event :=
  macroWait w ++ [wrData (keyWord v word), wrCmd (encode (.setword rd (BitVec.ofNat 8 word)))]

/-- `LD256 kd, V`; the wait before each word is free of the others (log entry 16). -/
def macroLd256 (waits : Nat → Wait) (rd : KReg) (v : Key) : List Event :=
  (List.range 8).flatMap (fun word => macroLoadWord (waits word) rd v word)

/-- One word of `ST256`: the wait of its ISSUE, and the wait before its DATA read. -/
def macroStoreWord (wIssue wRead : Wait) (ra : KReg) (word : Nat) : List Event :=
  macroIssue wIssue (.getword ra (BitVec.ofNat 8 word)) ++ macroWait wRead ++ [rdData]

/-- `ST256 ka`; each of its sixteen waits is free of the others (log entry 16). -/
def macroSt256 (issueWaits readWaits : Nat → Wait) (ra : KReg) : List Event :=
  (List.range 8).flatMap (fun word => macroStoreWord (issueWaits word) (readWaits word) ra word)

end Sys2Proof.Machine
end

