-- ==== Sys2Proof/Machine/Step.lean ====
section
/-! DEFINITION. Machine/Step.lean: one step of the machine is one event (60_exceptions.md R316, 70 R371). -/

namespace Sys2Proof.Machine

/-- One step: the next event, with the table this hardware takes (42_compare_validate.md R232). -/
def step (s : State) : Host.Outcome State Fault Refusal := s.advance exec

/-- The block fetches nothing (10_state.md R33): the command of the word is placed as pending (log entry 4), so that the
very next step runs it. -/
def State.withFetchWord (s : State) (nbits w : Nat) : State := s.placeCommand (placedWord nbits w)

end Sys2Proof.Machine
end

