-- ==== Sys2Proof/Safety.lean ====
section
/-! DEFINITION. Safety.lean: the terms claims are stated in: the invariant of the block, the end of a run, and what the
completion of a command leaves unchanged. -/

namespace Sys2Proof.Machine

/-- The block is in a legal state. -/
structure State.Inv (s : State) : Prop where
  /-- BUSY = 1 exactly when PEND is non-empty (10_state.md R49) -/
  busy_pend : s.busy = s.pend.isSome
  /-- PEND holds a command some word decodes to (60_exceptions.md R312) -/
  pend_wellFormed : s.pend.all Instr.wellFormed = true
  /-- while BUSY = 1, DONE = 0 (10_state.md R52) -/
  busy_done : s.busy = true → s.done = false
  /-- CMPR is never 11 (10_state.md R36) -/
  cmpr_legal : s.cmpr ≠ 0b11
  /-- ERRCODE is 0 (NONE) exactly when no error is recorded (60_exceptions.md R310) -/
  err_errcode : s.err = true ↔ s.errcode ≠ 0
  /-- ERRCODE is never one of the reserved codes 5 .. 15 (60_exceptions.md R310) -/
  errcode_legal : s.errcode.toNat ≤ 4

/-- The end of a run: no transaction of the host is still to come and BUSY = 0 (70 R371). -/
def State.ended (s : State) : Prop := s.agenda = [] ∧ s.busy = false

/-- A command has completed: BUSY, DONE and PEND as R50 leaves them; the error record and IE, which no command changes
(10_state.md R40, 60_exceptions.md R313), and the outside world as they were. -/
structure Completed (s t : State) : Prop where
  busy : t.busy = false
  done : t.done = true
  pend : t.pend = none
  err : t.err = s.err
  errcode : t.errcode = s.errcode
  ie : t.ie = s.ie
  agenda : t.agenda = s.agenda
  reads : t.reads = s.reads
  draws : t.draws = s.draws

/-- Every key register but those listed is unchanged. -/
def KeysKept (s t : State) (written : List KReg) : Prop := ∀ r, r ∉ written → t.readK r = s.readK r

/-- A command has completed and wrote nothing but the listed key registers. -/
structure WroteOnlyKeys (s t : State) (written : List KReg) : Prop extends Completed s t where
  keys : KeysKept s t written
  data : t.data = s.data
  flag : t.flag = s.flag
  cmpr : t.cmpr = s.cmpr

/-- A command has completed and wrote nothing but FLAG. -/
structure WroteOnlyFlag (s t : State) : Prop extends Completed s t where
  keys : KeysKept s t []
  data : t.data = s.data
  cmpr : t.cmpr = s.cmpr

/-- A command has completed and wrote nothing but FLAG and CMPR. -/
structure WroteOnlyFlags (s t : State) : Prop extends Completed s t where
  keys : KeysKept s t []
  data : t.data = s.data

/-- A command has completed and wrote nothing but DATA. -/
structure WroteOnlyData (s t : State) : Prop extends Completed s t where
  keys : KeysKept s t []
  flag : t.flag = s.flag
  cmpr : t.cmpr = s.cmpr

/-- A command has completed and wrote nothing but FLAG and DATA. -/
structure WroteOnlyFlagData (s t : State) : Prop extends Completed s t where
  keys : KeysKept s t []
  cmpr : t.cmpr = s.cmpr

end Sys2Proof.Machine

namespace Sys2Proof

/-- The key registers a command reads (10_state.md R32, column "reads"). -/
def Instr.keysRead : Instr → List KReg
  | .nop => []
  | .fadd _ ra rb => [ra, rb]
  | .fsub _ ra rb => [ra, rb]
  | .fmul _ ra rb => [ra, rb]
  | .fsqr _ ra => [ra]
  | .fmuls _ ra => [ra]
  | .finv _ ra => [ra]
  | .pdbl _ ra => [ra, ra + 1]
  | .pdadd _ ra rb rc => [ra, ra + 1, rb, rb + 1, rc]
  | .cswap ra rb rc _ => [ra, rb, rc]
  | .lstep rd ra rb rc _ => [rd, rd + 1, ra, ra + 1, rb, rc]
  | .smul _ ra rb => [ra, rb]
  | .iszero ra => [ra]
  | .cmp ra rb => [ra, rb]
  | .kvalid ra => [ra]
  | .mov _ ra => [ra]
  | .ldi _ _ => []
  | .ldc _ _ => []
  | .getbit ra _ => [ra]
  | .setbit rd _ => [rd]
  | .getbyte ra _ => [ra]
  | .setbyte rd _ => [rd]
  | .getword ra _ => [ra]
  | .setword rd _ => [rd]

/-- The key registers a command writes (10_state.md R32, column "writes"). -/
def Instr.keysWritten : Instr → List KReg
  | .nop => []
  | .fadd rd _ _ => [rd]
  | .fsub rd _ _ => [rd]
  | .fmul rd _ _ => [rd]
  | .fsqr rd _ => [rd]
  | .fmuls rd _ => [rd]
  | .finv rd _ => [rd]
  | .pdbl rd _ => [rd, rd + 1]
  | .pdadd rd _ _ _ => [rd, rd + 1]
  | .cswap ra rb _ _ => [ra, rb]
  | .lstep rd ra _ _ _ => [rd, rd + 1, ra, ra + 1]
  | .smul rd _ _ => [rd]
  | .iszero _ => []
  | .cmp _ _ => []
  | .kvalid _ => []
  | .mov rd _ => [rd]
  | .ldi rd _ => [rd]
  | .ldc rd _ => [rd]
  | .getbit _ _ => []
  | .setbit rd _ => [rd]
  | .getbyte _ _ => []
  | .setbyte rd _ => [rd]
  | .getword _ _ => []
  | .setword rd _ => [rd]

/-- The commands that write FLAG (10_state.md R35). -/
def Instr.writesFlag : Instr → Bool
  | .iszero _ | .cmp _ _ | .kvalid _ | .getbit _ _ => true
  | .nop | .fadd _ _ _ | .fsub _ _ _ | .fmul _ _ _ | .fsqr _ _ | .fmuls _ _ | .finv _ _ | .pdbl _ _ | .pdadd _ _ _ _
  | .cswap _ _ _ _ | .lstep _ _ _ _ _ | .smul _ _ _ | .mov _ _ | .ldi _ _ | .ldc _ _ | .setbit _ _ | .getbyte _ _
  | .setbyte _ _ | .getword _ _ | .setword _ _ => false

/-- The command that writes CMPR (10_state.md R36). -/
def Instr.writesCmpr : Instr → Bool
  | .cmp _ _ => true
  | .nop | .fadd _ _ _ | .fsub _ _ _ | .fmul _ _ _ | .fsqr _ _ | .fmuls _ _ | .finv _ _ | .pdbl _ _ | .pdadd _ _ _ _
  | .cswap _ _ _ _ | .lstep _ _ _ _ _ | .smul _ _ _ | .iszero _ | .kvalid _ | .mov _ _ | .ldi _ _ | .ldc _ _
  | .getbit _ _ | .setbit _ _ | .getbyte _ _ | .setbyte _ _ | .getword _ _ | .setword _ _ => false

/-- The commands that write DATA (10_state.md R37). -/
def Instr.writesData : Instr → Bool
  | .getbit _ _ | .getbyte _ _ | .getword _ _ => true
  | .nop | .fadd _ _ _ | .fsub _ _ _ | .fmul _ _ _ | .fsqr _ _ | .fmuls _ _ | .finv _ _ | .pdbl _ _ | .pdadd _ _ _ _
  | .cswap _ _ _ _ | .lstep _ _ _ _ _ | .smul _ _ _ | .iszero _ | .cmp _ _ | .kvalid _ | .mov _ _ | .ldi _ _
  | .ldc _ _ | .setbit _ _ | .setbyte _ _ | .setword _ _ => false

/-- The commands that read DATA (10_state.md R37). -/
def Instr.readsData : Instr → Bool
  | .setbit _ _ | .setbyte _ _ | .setword _ _ => true
  | .nop | .fadd _ _ _ | .fsub _ _ _ | .fmul _ _ _ | .fsqr _ _ | .fmuls _ _ | .finv _ _ | .pdbl _ _ | .pdadd _ _ _ _
  | .cswap _ _ _ _ | .lstep _ _ _ _ _ | .smul _ _ _ | .iszero _ | .cmp _ _ | .kvalid _ | .mov _ _ | .ldi _ _
  | .ldc _ _ | .getbit _ _ | .getbyte _ _ | .getword _ _ => false

end Sys2Proof

namespace Sys2Proof.Machine

/-- The command word with the given field values, as the number R100's bit positions give. -/
def cmdWord (opc : Nat) (rd ra rb rc : KReg) (imm : BitVec 8) : Word :=
  BitVec.ofNat 32
    (opc * 2 ^ 24 + rd.val * 2 ^ 20 + ra.val * 2 ^ 16 + rb.val * 2 ^ 12 + rc.val * 2 ^ 8 + imm.toNat)

/-- The write is one the block refuses: not an aligned 32-bit write (20_memory.md R77), to an unmapped offset (10_state.md
R45), to CMD or DATA while BUSY = 1, or to CMD with a word that is no command (60_exceptions.md R310, R312). -/
def State.RefusesWrite (s : State) (off : Offset) (size : AccessSize) (v : Word) : Prop :=
  size ≠ .word ∨ off.toNat % 4 ≠ 0 ∨ 0x14 ≤ off.toNat ∨ (s.busy = true ∧ (off = 0x0C ∨ off = 0x10)) ∨
    (off = 0x0C ∧ ∀ i, decode v ≠ .command i)

/-- How many steps an event of the agenda can take: a WAITIDLE polls, lets the pending command complete, and polls once
more. -/
def Event.weight : Event → Nat
  | .bus _ => 1
  | .completion => 1
  | .waitIdle polls => polls + 3
  | .reset _ => 1

/-- A number of steps after which the run of a legal state has ended (70 R362, R371). -/
def State.stepsToEnd (s : State) : Nat := (s.agenda.map Event.weight).sum + 1

/-- The completions of a list of commands, one after another. -/
def execAll : List Instr → State → Result
  | [], s => .next s
  | i :: is, s =>
    match exec i s with
    | .next t => execAll is t
    | .fault r => .fault r
    | .refused r => .refused r

end Sys2Proof.Machine
end

