-- ==== Sys2Proof/Certificates/Slice0/Obligations.lean ====
section
/-! DEFINITION. Certificates/Slice0/Obligations.lean: the statements for the provers. Each docstring names the rule of
spec/ it formalises; a statement marked DERIVED rests on more than the cited rules' own words. -/

open Sys2Proof Sys2Proof.Machine

/-! ### Reset, the invariant and the step -/

/-- R352: the reset value of every state field; so STATUS, CTRL and DATA read 0 and irq is 0. -/
def Obligations.ResetHasSpecifiedValues : Prop :=
  (∀ r, State.reset.readK r = 0) ∧ State.reset.data = 0 ∧ State.reset.flag = false ∧ State.reset.cmpr = 0 ∧
    State.reset.busy = false ∧ State.reset.done = false ∧ State.reset.err = false ∧ State.reset.errcode = 0 ∧
    State.reset.ie = false ∧ State.reset.pend = none ∧ State.reset.irq = false ∧
    State.reset.busRead 0x08 .word = 0 ∧ State.reset.busRead 0x04 .word = 0 ∧ State.reset.busRead 0x10 .word = 0 ∧
    State.reset.busRead 0x00 .word = 0x43323535

/-- The reset state meets the invariant of R36, R49, R52 and R310. DERIVED. -/
def Obligations.ResetMeetsBlockInvariant : Prop := State.reset.Inv

/-- Every step keeps the invariant: BUSY = 1 exactly when PEND is non-empty and PEND holds a legal command (R49, R312), DONE
= 0 while BUSY = 1 (R52), CMPR is never 11 (R36), ERRCODE is 0 exactly when ERR = 0 and never 5 .. 15 (R310). From every
state that meets it, not from reset alone, and for every unsafe-point table (R5). DERIVED. -/
def Obligations.StepKeepsBlockInvariant : Prop :=
  (∀ s t : State, s.Inv → step s = .next t → t.Inv) ∧
  (∀ (table : UnsafeTable) (s t : State), s.Inv → stepOver table s = .next t → t.Inv)

/-- A pending command that is well-formed runs when its completion comes: the step is `exec` of it (R50). That an empty
agenda makes the completion the very next step is the model's convention for R362's weak fairness (log entry 1, DEDUCED).
Decoding: the host's CMD write of a word that decodes to `i`, in a block that is idle, makes `i` pending (R312), and
`withFetchWord`, at every agenda, places it so that the very next step is `exec i` (the model's choice, log entry 4,
DESIGN CHOICE). DERIVED. -/
def Obligations.StepRunsDecodedCommand : Prop :=
  (∀ (s : State) (i : Instr), s.pend = some i → i.wellFormed = true → s.agenda = [] → step s = exec i s) ∧
  (∀ (s : State) (i : Instr) (rest : List Event), s.pend = some i → i.wellFormed = true →
    s.agenda = .completion :: rest → step s = exec i { s with agenda := rest }) ∧
  (∀ (s : State) (i : Instr) (w : Word) (rest : List Event), decode w = .command i → s.busy = false →
    s.agenda = .bus (.write 0x0C .word w) :: rest →
    step s = .next { s with agenda := rest, busy := true, done := false, pend := some i }) ∧
  (∀ (s : State) (i : Instr) (w : Word), decode w = .command i →
    step (s.withFetchWord 32 w.toNat) = exec i { s with busy := true, done := false, pend := some i })

/-- R362 with R371: while a command is pending its completion is enabled and happens after finitely many other events, so
every run from a legal state ends, within `State.stepsToEnd` steps, in a legal state in which nothing is to come and BUSY
= 0, for every unsafe-point table (R5). DERIVED: the agenda is the model's own (log entry 1, DEDUCED), and the bound for a
WAITIDLE rests on its number of polls as data (log entry 16, DESIGN CHOICE). -/
def Obligations.EveryRunEnds : Prop :=
  (∀ s : State, s.Inv → ∃ t, Host.Core.run Sys2Proof.core s.stepsToEnd s = .next t ∧ t.Inv ∧ t.ended) ∧
  (∀ (table : UnsafeTable) (s : State), s.Inv →
    ∃ t, Host.Core.run (coreOver table) s.stepsToEnd s = .next t ∧ t.Inv ∧ t.ended)

/-! ### Encoding -/

/-- Words written out from R108's table decode as it says, the refused ones among them. -/
def Obligations.ExampleWordsDecodeAsListed : Prop :=
  decode 0x00000000 = .command .nop ∧
  decode 0x01312000 = .command (.fadd 3 1 2) ∧
  decode 0x10400000 = .command (.pdbl 4 0) ∧
  decode 0x11402800 = .command (.pdadd 4 0 2 8) ∧
  decode 0x120029FE = .command (.cswap 0 2 9 254) ∧
  decode 0x13028903 = .command (.lstep 0 2 8 9 3) ∧
  decode 0x14598000 = .command (.smul 5 9 8) ∧
  decode 0x44050007 = .command (.getword 5 7) ∧
  decode 0x32600002 = .command (.ldc 6 2) ∧
  decode 0x01312001 = .illopnd ∧ decode 0x10100000 = .illopnd ∧ decode 0x13000000 = .illopnd ∧
  decode 0x3260000F = .illopnd ∧ decode 0x42050020 = .illopnd ∧
  decode 0x07000000 = .illop ∧ decode 0xFF000000 = .illop

/-- Decoding the word of a well-formed command gives the command back, for all 24 opcodes and every operand value the
encoding admits (R100, R105, R107). DERIVED. -/
def Obligations.DecodeOfEncodeIsIdentity : Prop :=
  ∀ i : Instr, i.wellFormed = true → decode (encode i) = .command i

/-- Every word has one meaning or none: a word that decodes to a command is that command's own word, and the command is
well-formed (R103, R107). DERIVED. -/
def Obligations.EncodeOfDecodeIsIdentity : Prop :=
  ∀ (w : Word) (i : Instr), decode w = .command i → encode i = w ∧ i.wellFormed = true

/-- R106: exactly the words with an OPC outside R105's table decode to ILLOP, whatever their other fields hold. -/
def Obligations.IllegalOpcodesAreIllop : Prop :=
  ∀ w : Word, decode w = .illop ↔
    (let n := w.toNat / 2 ^ 24
     (0x07 ≤ n ∧ n ≤ 0x0F) ∨ (0x15 ≤ n ∧ n ≤ 0x1F) ∨ (0x23 ≤ n ∧ n ≤ 0x2F) ∨ (0x33 ≤ n ∧ n ≤ 0x3F) ∨
       (0x46 ≤ n ∧ n ≤ 0xFF))

/-- R103, R104 and R107's checks, field by field: exactly the words with a legal OPC and a non-zero unused field, an odd
point-pair field, an IMM out of range, or LSTEP's RD = RA decode to ILLOPND. -/
def Obligations.IllegalOperandsAreIllopnd : Prop :=
  ∀ w : Word, decode w = .illopnd ↔
    (let n := w.toNat / 2 ^ 24
     let d := w.toNat / 2 ^ 20 % 16
     let a := w.toNat / 2 ^ 16 % 16
     let b := w.toNat / 2 ^ 12 % 16
     let c := w.toNat / 2 ^ 8 % 16
     let i := w.toNat % 256
     n ∈ [0x00, 0x01, 0x02, 0x03, 0x04, 0x05, 0x06, 0x10, 0x11, 0x12, 0x13, 0x14, 0x20, 0x21, 0x22, 0x30, 0x31, 0x32,
       0x40, 0x41, 0x42, 0x43, 0x44, 0x45] ∧
     ((n ∈ [0x00, 0x12, 0x20, 0x21, 0x22, 0x40, 0x42, 0x44] ∧ d ≠ 0) ∨
      (n ∈ [0x00, 0x31, 0x32, 0x41, 0x43, 0x45] ∧ a ≠ 0) ∨
      (n ∈ [0x00, 0x04, 0x05, 0x06, 0x10, 0x20, 0x22, 0x30, 0x31, 0x32, 0x40, 0x41, 0x42, 0x43, 0x44, 0x45] ∧ b ≠ 0) ∨
      (¬ n ∈ [0x11, 0x12, 0x13] ∧ c ≠ 0) ∨
      (n ∈ [0x00, 0x01, 0x02, 0x03, 0x04, 0x05, 0x06, 0x10, 0x11, 0x14, 0x20, 0x21, 0x22, 0x30] ∧ i ≠ 0) ∨
      (n ∈ [0x10, 0x11, 0x13] ∧ (d % 2 = 1 ∨ a % 2 = 1)) ∨
      (n = 0x11 ∧ b % 2 = 1) ∨
      (n = 0x32 ∧ 14 < i) ∨
      (n ∈ [0x42, 0x43] ∧ 31 < i) ∨
      (n ∈ [0x44, 0x45] ∧ 7 < i) ∨
      (n = 0x13 ∧ d = a)))

/-! ### Field commands (40_field.md): encoding, result and frame -/

/-- R141. -/
def Obligations.FaddWritesSumModP : Prop :=
  ∀ (s : State) (rd ra rb : KReg),
    decode (cmdWord 0x01 rd ra rb 0 0) = .command (.fadd rd ra rb) ∧
    ∃ t, exec (.fadd rd ra rb) s = .next t ∧ WroteOnlyKeys s t [rd] ∧
      int (t.readK rd) = (int (s.readK ra) + int (s.readK rb)) % (2 ^ 255 - 19)

/-- R142; the residue of a negative difference is taken into [0, p). -/
def Obligations.FsubWritesDifferenceModP : Prop :=
  ∀ (s : State) (rd ra rb : KReg),
    decode (cmdWord 0x02 rd ra rb 0 0) = .command (.fsub rd ra rb) ∧
    ∃ t, exec (.fsub rd ra rb) s = .next t ∧ WroteOnlyKeys s t [rd] ∧
      int (t.readK rd) = (int (s.readK ra) - int (s.readK rb)) % (2 ^ 255 - 19)

/-- R143. -/
def Obligations.FmulWritesProductModP : Prop :=
  ∀ (s : State) (rd ra rb : KReg),
    decode (cmdWord 0x03 rd ra rb 0 0) = .command (.fmul rd ra rb) ∧
    ∃ t, exec (.fmul rd ra rb) s = .next t ∧ WroteOnlyKeys s t [rd] ∧
      int (t.readK rd) = (int (s.readK ra) * int (s.readK rb)) % (2 ^ 255 - 19)

/-- R145; FSQR is FMUL of the operand with itself. -/
def Obligations.FsqrWritesSquareModP : Prop :=
  ∀ (s : State) (rd ra : KReg),
    decode (cmdWord 0x04 rd ra 0 0 0) = .command (.fsqr rd ra) ∧
    exec (.fsqr rd ra) s = exec (.fmul rd ra ra) s ∧
    ∃ t, exec (.fsqr rd ra) s = .next t ∧ WroteOnlyKeys s t [rd] ∧
      int (t.readK rd) = (int (s.readK ra) * int (s.readK ra)) % (2 ^ 255 - 19)

/-- R146. -/
def Obligations.FmulsWritesA24ProductModP : Prop :=
  ∀ (s : State) (rd ra : KReg),
    decode (cmdWord 0x05 rd ra 0 0 0) = .command (.fmuls rd ra) ∧
    ∃ t, exec (.fmuls rd ra) s = .next t ∧ WroteOnlyKeys s t [rd] ∧
      int (t.readK rd) = (int (s.readK ra) * 121665) % (2 ^ 255 - 19)

/-- R150 and R151: the Fermat power, which is 0 for an operand ≡ 0. -/
def Obligations.FinvWritesFermatPower : Prop :=
  ∀ (s : State) (rd ra : KReg),
    decode (cmdWord 0x06 rd ra 0 0 0) = .command (.finv rd ra) ∧
    ∃ t, exec (.finv rd ra) s = .next t ∧ WroteOnlyKeys s t [rd] ∧
      (t.readK rd).toNat = (s.readK ra).toNat ^ (p - 2) % p ∧
      ((s.readK ra).toNat % p = 0 → t.readK rd = 0)

/-- R152: for every x with x mod p ≠ 0, FINV and then FMUL with x gives 1. -/
def Obligations.InverseTimesOperandIsOne : Prop :=
  ∀ (s : State) (rd rq ra : KReg), rd ≠ ra → (s.readK ra).toNat % p ≠ 0 →
    ∃ t, execAll [.finv rd ra, .fmul rq ra rd] s = .next t ∧ t.readK rq = 1

/-- R156: the reference chain's result is the Fermat power of R150 for every operand. DERIVED. -/
def Obligations.InversionChainIsFermatPower : Prop :=
  ∀ z : Key, (invChain z).toNat = z.toNat ^ (p - 2) % p

/-- R144, R147, R148: the reference reduction gives t mod p for every t below 2^512, and the source's algorithms for
canonical operands give the results of R141 and R142. DERIVED. -/
def Obligations.ReferenceDatapathsConform : Prop :=
  (∀ t : Nat, t < 2 ^ 512 → reduceRef t = t % p) ∧
  (∀ a b : Key, a.toNat < p → b.toNat < p →
    (add a b).toNat = addCanonical a.toNat b.toNat ∧ (sub a b).toNat = subCanonical a.toNat b.toNat)

/-! ### Ladder commands (41_ladder.md) -/

/-- R181, with the reductions of the intermediates dropped: X' = (X−Z)²(X+Z)², Z' = o·((X+Z)² + 121665·o), o = (X+Z)² −
(X−Z)², all mod p. An odd pair field is no command (R104). -/
def Obligations.PdblDoublesProjectively : Prop :=
  ∀ (s : State) (rd ra : KReg), rd.val % 2 = 0 → ra.val % 2 = 0 →
    decode (cmdWord 0x10 rd ra 0 0 0) = .command (.pdbl rd ra) ∧
    ∃ t, exec (.pdbl rd ra) s = .next t ∧ WroteOnlyKeys s t [rd, rd + 1] ∧
      (let X := int (s.readK ra)
       let Z := int (s.readK (ra + 1))
       let m := (X + Z) ^ 2
       let n := (X - Z) ^ 2
       let o := m - n
       int (t.readK rd) = (n * m) % (2 ^ 255 - 19) ∧
       int (t.readK (rd + 1)) = (o * (m + 121665 * o)) % (2 ^ 255 - 19))

/-- R183, with the reductions of the intermediates dropped: DA = (X3−Z3)(X2+Z2), CB = (X3+Z3)(X2−Z2); X = (DA+CB)², Z =
x1·(DA−CB)², mod p. -/
def Obligations.PdaddAddsDifferentially : Prop :=
  ∀ (s : State) (rd ra rb rc : KReg), rd.val % 2 = 0 → ra.val % 2 = 0 → rb.val % 2 = 0 →
    decode (cmdWord 0x11 rd ra rb rc 0) = .command (.pdadd rd ra rb rc) ∧
    ∃ t, exec (.pdadd rd ra rb rc) s = .next t ∧ WroteOnlyKeys s t [rd, rd + 1] ∧
      (let X2 := int (s.readK ra)
       let Z2 := int (s.readK (ra + 1))
       let X3 := int (s.readK rb)
       let Z3 := int (s.readK (rb + 1))
       let x1 := int (s.readK rc)
       let DA := (X3 - Z3) * (X2 + Z2)
       let CB := (X3 + Z3) * (X2 - Z2)
       int (t.readK rd) = ((DA + CB) ^ 2) % (2 ^ 255 - 19) ∧
       int (t.readK (rd + 1)) = (x1 * (DA - CB) ^ 2) % (2 ^ 255 - 19))

/-- R186: the bit of K[RC] selects, before the swap, whether the two registers exchange their values. -/
def Obligations.CswapExchangesOnSelectedBit : Prop :=
  ∀ (s : State) (ra rb rc : KReg) (bit : BitVec 8),
    decode (cmdWord 0x12 0 ra rb rc bit) = .command (.cswap ra rb rc bit) ∧
    ∃ t, exec (.cswap ra rb rc bit) s = .next t ∧ WroteOnlyKeys s t [ra, rb] ∧
      (if (s.readK rc).getLsbD bit.toNat then t.readK ra = s.readK rb ∧ t.readK rb = s.readK ra
       else t.readK ra = s.readK ra ∧ t.readK rb = s.readK rb)

/-- R188: two CSWAPs with the same operands and an unchanged selector restore both registers (and, by the frame, all). The
second sees the same bit where the selector register is not one of the two. DERIVED. -/
def Obligations.CswapTwiceRestores : Prop :=
  ∀ (s : State) (ra rb rc : KReg) (bit : BitVec 8), rc ≠ ra → rc ≠ rb →
    ∃ t, execAll [.cswap ra rb rc bit, .cswap ra rb rc bit] s = .next t ∧ WroteOnlyKeys s t []

/-- R189: the two branches, for every current and lookahead pair; RD = RA is refused at issue. -/
def Obligations.LstepConsumesOneScalarBit : Prop :=
  (∀ (s : State) (rd ra rb rc : KReg) (bit : BitVec 8), rd.val % 2 = 0 → ra.val % 2 = 0 → rd ≠ ra →
    decode (cmdWord 0x13 rd ra rb rc bit) = .command (.lstep rd ra rb rc bit) ∧
    ∃ t, exec (.lstep rd ra rb rc bit) s = .next t ∧ WroteOnlyKeys s t [rd, rd + 1, ra, ra + 1] ∧
      (let cur : Point := ⟨s.readK rd, s.readK (rd + 1)⟩
       let look : Point := ⟨s.readK ra, s.readK (ra + 1)⟩
       let x1 := s.readK rb
       let cur' : Point := ⟨t.readK rd, t.readK (rd + 1)⟩
       let look' : Point := ⟨t.readK ra, t.readK (ra + 1)⟩
       if (s.readK rc).getLsbD bit.toNat = false then cur' = dbl cur ∧ look' = dadd look cur x1
       else cur' = dadd look cur x1 ∧ look' = dbl look)) ∧
  (∀ (rd rb rc : KReg) (bit : BitVec 8), decode (cmdWord 0x13 rd rd rb rc bit) = .illopnd)

/-- R193, R194, R195: a zero scalar gives 0 without the ladder; else the loop runs over the bits below the highest set bit
n, highest first, and the result is X·Z⁻¹ of the current point. -/
def Obligations.SmulRunsTheLadder : Prop :=
  ∀ (s : State) (rd ra rb : KReg),
    decode (cmdWord 0x14 rd ra rb 0 0) = .command (.smul rd ra rb) ∧
    ∃ t, exec (.smul rd ra rb) s = .next t ∧ WroteOnlyKeys s t [rd] ∧
      (s.readK ra = 0 → t.readK rd = 0) ∧
      ∀ n : Nat, (s.readK ra).getLsbD n = true → (∀ j, n < j → (s.readK ra).getLsbD j = false) →
        (let k := s.readK ra
         let u := s.readK rb
         let last := (List.range n).reverse.foldl
           (fun (q : Point × Point) i =>
             if k.getLsbD i then (dadd q.2 q.1 u, dbl q.2) else (dbl q.1, dadd q.2 q.1 u))
           ((⟨u, 1⟩ : Point), dbl ⟨u, 1⟩)
         t.readK rd = mul last.1.X (inv last.1.Z))

/-- R184: differential addition is symmetric in its two points, for every value: swapping RA and RB of PDADD gives the
same completion. -/
def Obligations.DifferentialAddIsSymmetric : Prop :=
  (∀ (q r : Point) (x1 : Key), dadd q r x1 = dadd r q x1) ∧
  (∀ (s : State) (rd ra rb rc : KReg), ∃ t,
    exec (.pdadd rd ra rb rc) s = .next t ∧ exec (.pdadd rd rb ra rc) s = .next t)

/-- R190: the uniform step between two conditional swaps gives exactly R189's two-branch result for every input. DERIVED. -/
def Obligations.UniformStepEqualsBranchStep : Prop :=
  ∀ (cur look : Point) (x1 : Key) (bit : Bool),
    ladderStepUniform cur look x1 bit = ladderStep cur look x1 bit

/-- R182: PDBL equals the sequence of nine field commands with scratch registers k6, k7 that are not among its operands,
on the destination pair. -/
def Obligations.PdblEqualsFieldSequence : Prop :=
  ∀ (s : State) (kd ka k6 k7 : KReg), kd.val % 2 = 0 → ka.val % 2 = 0 → k6 ≠ k7 →
    k6 ∉ [kd, kd + 1, ka, ka + 1] → k7 ∉ [kd, kd + 1, ka, ka + 1] →
    ∃ t t', exec (.pdbl kd ka) s = .next t ∧
      execAll [.fadd k6 ka (ka + 1), .fsqr k6 k6, .fsub k7 ka (ka + 1), .fsqr k7 k7, .fmul kd k7 k6, .fsub k7 k6 k7,
        .fmuls (kd + 1) k7, .fadd (kd + 1) (kd + 1) k6, .fmul (kd + 1) (kd + 1) k7] s = .next t' ∧
      t'.readK kd = t.readK kd ∧ t'.readK (kd + 1) = t.readK (kd + 1)

/-- R193's corner cases, R196 and R199: scalar 0 gives 0 for every base; scalar 1 gives the base mod p; base 0 gives 0 for
every scalar; every result is canonical. DERIVED. -/
def Obligations.SmulOnDegenerateOperands : Prop :=
  ∀ (s : State) (rd ra rb : KReg), ∃ t, exec (.smul rd ra rb) s = .next t ∧ (t.readK rd).toNat < p ∧
    (s.readK ra = 0 → t.readK rd = 0) ∧
    (s.readK ra = 1 → (t.readK rd).toNat = (s.readK rb).toNat % p) ∧
    (s.readK rb = 0 → t.readK rd = 0)

/-- R197: the base is not masked; it takes part as its full 256-bit value, reduced mod p: two bases with the same residue
give the same result. DERIVED. -/
def Obligations.SmulDependsOnBaseModP : Prop :=
  ∀ k u v : Key, u.toNat % p = v.toNat % p → scalarMul k u = scalarMul k v

/-! ### Comparison and validation (42_compare_validate.md) -/

/-- R230: the raw value is compared, with no reduction. -/
def Obligations.IszeroTestsRawZero : Prop :=
  ∀ (s : State) (ra : KReg),
    decode (cmdWord 0x20 0 ra 0 0 0) = .command (.iszero ra) ∧
    ∃ t, exec (.iszero ra) s = .next t ∧ WroteOnlyFlag s t ∧ (t.flag = true ↔ (s.readK ra).toNat = 0)

/-- R231: the unsigned three-way comparison. -/
def Obligations.CmpComparesRawValues : Prop :=
  ∀ (s : State) (ra rb : KReg),
    decode (cmdWord 0x21 0 ra rb 0 0) = .command (.cmp ra rb) ∧
    ∃ t, exec (.cmp ra rb) s = .next t ∧ WroteOnlyFlags s t ∧
      (let x := (s.readK ra).toNat
       let y := (s.readK rb).toNat
       (x = y → t.cmpr = 0b00 ∧ t.flag = true) ∧
       (x < y → t.cmpr = 0b01 ∧ t.flag = false) ∧
       (y < x → t.cmpr = 0b10 ∧ t.flag = false))

/-- R234: over every table, unsafe exactly for a value that equals one of its twelve entries; with the default table of R232,
which this hardware takes, unsafe exactly for the twelve listed values. -/
def Obligations.KvalidRejectsExactlyTheTable : Prop :=
  ∀ (s : State) (ra : KReg),
    decode (cmdWord 0x22 0 ra 0 0 0) = .command (.kvalid ra) ∧
    ∃ t, exec (.kvalid ra) s = .next t ∧ WroteOnlyFlag s t ∧
      (t.flag = false ↔ (s.readK ra).toNat ∈
        [0, 1, c8a, c8b, p - 1, p, p + 1, p + c8a, p + c8b, 2 * p - 1, 2 * p, 2 * p + 1]) ∧
    ∀ table : UnsafeTable, ∃ t, execOver table (.kvalid ra) s = .next t ∧ WroteOnlyFlag s t ∧
      (t.flag = false ↔ ∃ j, j < 12 ∧ table.values[j]? = some (s.readK ra))

/-- R5, R232, R237: the unsafe-point table is an argument of the model, of which this hardware is the instance at the
default, and no command but KVALID and LDC consults it. DERIVED. -/
def Obligations.OnlyKvalidAndLdcConsultTheTable : Prop :=
  (∀ (i : Instr) (s : State), exec i s = execOver defaultTable i s) ∧
  (∀ s : State, step s = stepOver defaultTable s) ∧
  (∀ (table table' : UnsafeTable) (i : Instr) (s : State), (∀ ra, i ≠ .kvalid ra) → (∀ rd idx, i ≠ .ldc rd idx) →
    execOver table i s = execOver table' i s) ∧
  (∀ (table table' : UnsafeTable) (s : State), (∀ ra, s.pend ≠ some (.kvalid ra)) →
    (∀ rd idx, s.pend ≠ some (.ldc rd idx)) → stepOver table s = stepOver table' s)

/-- R232: the default table is every 256-bit value congruent mod p to 0, 1, p − 1, c8a or c8b, so KVALID rejects exactly
those residues. Rests on the default table. DERIVED. -/
def Obligations.KvalidRejectsSmallOrderResidues : Prop :=
  ∀ x : Key, isSafe unsafeTable x = false ↔ x.toNat % p ∈ [0, 1, p - 1, c8a, c8b]

/-- R236: over every ascending table of twelve values the binary search reaches R234's verdict in at most four
comparisons. DERIVED. -/
def Obligations.BinarySearchReachesVerdict : Prop :=
  ∀ (table : List Key) (x : Key), table.length = 12 → table.Pairwise (fun a b => a.toNat < b.toNat) →
    ∃ n, n ≤ 4 ∧ searchVerdict table x = some (isSafe table x, n)

/-! ### Register transfer and accessors (43_register_access.md) -/

/-- R260. -/
def Obligations.NopChangesOnlyBusyAndDone : Prop :=
  ∀ s : State,
    decode (cmdWord 0x00 0 0 0 0 0) = .command .nop ∧
    ∃ t, exec .nop s = .next t ∧ WroteOnlyKeys s t []

/-- R261: the raw value, with no reduction. -/
def Obligations.MovCopiesRawValue : Prop :=
  ∀ (s : State) (rd ra : KReg),
    decode (cmdWord 0x30 rd ra 0 0 0) = .command (.mov rd ra) ∧
    ∃ t, exec (.mov rd ra) s = .next t ∧ WroteOnlyKeys s t [rd] ∧ t.readK rd = s.readK ra

/-- R262. -/
def Obligations.LdiLoadsZeroExtendedImmediate : Prop :=
  ∀ (s : State) (rd : KReg) (imm : BitVec 8),
    decode (cmdWord 0x31 rd 0 0 0 imm) = .command (.ldi rd imm) ∧
    ∃ t, exec (.ldi rd imm) s = .next t ∧ WroteOnlyKeys s t [rd] ∧ (t.readK rd).toNat = imm.toNat

/-- R263 with the ROM of R47: over every table, index 0 loads p, 1 loads a24, 2 loads 9 and 3 + j loads UNSAFE_TABLE[j]; with
the default table of R232, which this hardware takes, the listed constants; an index above 14 is refused at issue. -/
def Obligations.LdcLoadsRomConstant : Prop :=
  (∀ (s : State) (rd : KReg) (idx : BitVec 8), idx.toNat ≤ 14 →
    decode (cmdWord 0x32 rd 0 0 0 idx) = .command (.ldc rd idx) ∧
    ∃ t, exec (.ldc rd idx) s = .next t ∧ WroteOnlyKeys s t [rd] ∧
      [2 ^ 255 - 19, 121665, 9, 0, 1, c8a, c8b, p - 1, p, p + 1, p + c8a, p + c8b, 2 * p - 1, 2 * p, 2 * p + 1][idx.toNat]?
        = some (t.readK rd).toNat) ∧
  (∀ (table : UnsafeTable) (s : State) (rd : KReg) (idx : BitVec 8), idx.toNat ≤ 14 →
    ∃ t, execOver table (.ldc rd idx) s = .next t ∧ WroteOnlyKeys s t [rd] ∧
      (idx.toNat = 0 → (t.readK rd).toNat = 2 ^ 255 - 19) ∧
      (idx.toNat = 1 → (t.readK rd).toNat = 121665) ∧
      (idx.toNat = 2 → (t.readK rd).toNat = 9) ∧
      (∀ j, idx.toNat = 3 + j → table.values[j]? = some (t.readK rd))) ∧
  (∀ (rd : KReg) (idx : BitVec 8), 14 < idx.toNat → decode (cmdWord 0x32 rd 0 0 0 idx) = .illopnd)

/-- R265: the bit goes to FLAG and, zero-extended, to DATA. -/
def Obligations.GetbitReadsOneBit : Prop :=
  ∀ (s : State) (ra : KReg) (bit : BitVec 8),
    decode (cmdWord 0x40 0 ra 0 0 bit) = .command (.getbit ra bit) ∧
    ∃ t, exec (.getbit ra bit) s = .next t ∧ WroteOnlyFlagData s t ∧
      (t.flag = true ↔ (s.readK ra).toNat / 2 ^ bit.toNat % 2 = 1) ∧
      t.data.toNat = (s.readK ra).toNat / 2 ^ bit.toNat % 2

/-- R266: only the indexed bit changes, to DATA[0]. -/
def Obligations.SetbitWritesOneBit : Prop :=
  ∀ (s : State) (rd : KReg) (bit : BitVec 8),
    decode (cmdWord 0x41 rd 0 0 0 bit) = .command (.setbit rd bit) ∧
    ∃ t, exec (.setbit rd bit) s = .next t ∧ WroteOnlyKeys s t [rd] ∧
      ∀ j, j < 256 → (t.readK rd).getLsbD j = if j = bit.toNat then s.data.getLsbD 0 else (s.readK rd).getLsbD j

/-- R267; an index above 31 is refused at issue. -/
def Obligations.GetbyteReadsOneByte : Prop :=
  (∀ (s : State) (ra : KReg) (byte : BitVec 8), byte.toNat ≤ 31 →
    decode (cmdWord 0x42 0 ra 0 0 byte) = .command (.getbyte ra byte) ∧
    ∃ t, exec (.getbyte ra byte) s = .next t ∧ WroteOnlyData s t ∧
      t.data.toNat = (s.readK ra).toNat / 2 ^ (8 * byte.toNat) % 2 ^ 8) ∧
  (∀ (ra : KReg) (byte : BitVec 8), 31 < byte.toNat → decode (cmdWord 0x42 0 ra 0 0 byte) = .illopnd)

/-- R268: only the indexed byte changes, to DATA[7:0]; an index above 31 is refused at issue. -/
def Obligations.SetbyteWritesOneByte : Prop :=
  (∀ (s : State) (rd : KReg) (byte : BitVec 8), byte.toNat ≤ 31 →
    decode (cmdWord 0x43 rd 0 0 0 byte) = .command (.setbyte rd byte) ∧
    ∃ t, exec (.setbyte rd byte) s = .next t ∧ WroteOnlyKeys s t [rd] ∧
      ∀ j, j < 256 → (t.readK rd).getLsbD j =
        if 8 * byte.toNat ≤ j ∧ j ≤ 8 * byte.toNat + 7 then s.data.getLsbD (j - 8 * byte.toNat)
        else (s.readK rd).getLsbD j) ∧
  (∀ (rd : KReg) (byte : BitVec 8), 31 < byte.toNat → decode (cmdWord 0x43 rd 0 0 0 byte) = .illopnd)

/-- R271; an index above 7 is refused at issue. -/
def Obligations.GetwordReadsOneWord : Prop :=
  (∀ (s : State) (ra : KReg) (word : BitVec 8), word.toNat ≤ 7 →
    decode (cmdWord 0x44 0 ra 0 0 word) = .command (.getword ra word) ∧
    ∃ t, exec (.getword ra word) s = .next t ∧ WroteOnlyData s t ∧
      t.data.toNat = (s.readK ra).toNat / 2 ^ (32 * word.toNat) % 2 ^ 32) ∧
  (∀ (ra : KReg) (word : BitVec 8), 7 < word.toNat → decode (cmdWord 0x44 0 ra 0 0 word) = .illopnd)

/-- R270: only the indexed word changes, to DATA; an index above 7 is refused at issue. -/
def Obligations.SetwordWritesOneWord : Prop :=
  (∀ (s : State) (rd : KReg) (word : BitVec 8), word.toNat ≤ 7 →
    decode (cmdWord 0x45 rd 0 0 0 word) = .command (.setword rd word) ∧
    ∃ t, exec (.setword rd word) s = .next t ∧ WroteOnlyKeys s t [rd] ∧
      ∀ j, j < 256 → (t.readK rd).getLsbD j =
        if 32 * word.toNat ≤ j ∧ j ≤ 32 * word.toNat + 31 then s.data.getLsbD (j - 32 * word.toNat)
        else (s.readK rd).getLsbD j) ∧
  (∀ (rd : KReg) (word : BitVec 8), 7 < word.toNat → decode (cmdWord 0x45 rd 0 0 0 word) = .illopnd)

/-- R264: byte b lies in word ⌊b/4⌋ at bits 8(b mod 4)+7 .. 8(b mod 4), bit i in byte ⌊i/8⌋ at bit i mod 8. DERIVED. -/
def Obligations.AccessorUnitsNest : Prop :=
  ∀ x : Key,
    (∀ b, b < 32 → keyByte x b = (keyWord x (b / 4)).extractLsb' (8 * (b % 4)) 8) ∧
    (∀ i, i < 256 → keyBit x i = (keyByte x (i / 8)).getLsbD (i % 8))

/-- R272: LD256 and then ST256 of the same register, by a host that waits as R110 says, leaves K[n] = x whatever it held
before and returns the eight words of x, least significant first, however each of the 24 waits meets the pending command.
DERIVED: the macros are events of the model's agenda (log entry 1, DEDUCED), each WAITIDLE carries its polls as data (log
entry 16, DESIGN CHOICE), and what the host reads is the model's list `reads` (log entry 2, DESIGN CHOICE). -/
def Obligations.LoadThenStoreKeyRoundTrip : Prop :=
  ∀ (s : State) (n : KReg) (x : Key) (loadWaits issueWaits readWaits : Nat → Wait), s.Inv →
    s.agenda = macroLd256 loadWaits n x ++ macroSt256 issueWaits readWaits n →
    ∃ t, Host.Core.run Sys2Proof.core s.stepsToEnd s = .next t ∧ t.ended ∧ t.readK n = x ∧
      t.reads.filter (fun e => e.1 == 0x10) =
        s.reads.filter (fun e => e.1 == 0x10) ++ (List.range 8).map (fun w => ((0x10 : Offset), x.extractLsb' (32 * w) 32))

/-! ### Rules over all commands -/

/-- R313: every command body is total: from every state, and for every unsafe-point table (R5), a well-formed command
completes, with no error raised. -/
def Obligations.EveryCommandCompletesWithoutError : Prop :=
  (∀ (i : Instr) (s : State), i.wellFormed = true → ∃ t, exec i s = .next t ∧ Completed s t) ∧
  (∀ (table : UnsafeTable) (i : Instr) (s : State), i.wellFormed = true →
    ∃ t, execOver table i s = .next t ∧ Completed s t)

/-- R32: a command writes no key register but those its row lists, and what it writes depends on no key register but those
its row lists. -/
def Obligations.CommandsReadAndWriteListedKeys : Prop :=
  (∀ (i : Instr) (s t : State), exec i s = .next t → KeysKept s t i.keysWritten) ∧
  (∀ (i : Instr) (s s' t t' : State), (∀ r ∈ i.keysRead, s.readK r = s'.readK r) → s.data = s'.data →
    exec i s = .next t → exec i s' = .next t' →
    (∀ r ∈ i.keysWritten, t.readK r = t'.readK r) ∧
    (i.writesFlag = true → t.flag = t'.flag) ∧ (i.writesCmpr = true → t.cmpr = t'.cmpr) ∧
    (i.writesData = true → t.data = t'.data))

/-- R35, R36, R37: FLAG is written by ISZERO, CMP, KVALID and GETBIT alone, CMPR by CMP alone and never with 11, DATA by
GETBIT, GETBYTE and GETWORD alone; and no command but SETBIT, SETBYTE and SETWORD reads DATA, none reads FLAG or CMPR.
DERIVED: the host's DATA write is in another statement. -/
def Obligations.ResultRegistersHaveListedWriters : Prop :=
  (∀ (i : Instr) (s t : State), exec i s = .next t →
    (i.writesFlag = false → t.flag = s.flag) ∧ (i.writesCmpr = false → t.cmpr = s.cmpr) ∧
    (i.writesCmpr = true → t.cmpr ≠ 0b11) ∧ (i.writesData = false → t.data = s.data)) ∧
  (∀ (i : Instr) (s t t' : State) (d : Word) (f : Bool) (c : BitVec 2), i.readsData = false →
    exec i s = .next t → exec i { s with data := d, flag := f, cmpr := c } = .next t' →
    t'.K = t.K ∧ (i.writesFlag = true → t'.flag = t.flag) ∧ (i.writesCmpr = true → t'.cmpr = t.cmpr) ∧
      (i.writesData = true → t'.data = t.data)) ∧
  (∀ (i : Instr) (s t t' : State) (f : Bool) (c : BitVec 2),
    exec i s = .next t → exec i { s with flag := f, cmpr := c } = .next t' → t'.K = t.K)

/-! ### The bus, errors, the interrupt and reset -/

/-- R72: a host read returns the register's value as its pseudocode gives it (0 for another size, a misaligned or an
unmapped offset) and changes no state of the block. -/
def Obligations.BusReadReturnsRegister : Prop :=
  ∀ (s : State) (off : Offset) (size : AccessSize) (rest : List Event),
    s.agenda = .bus (.read off size) :: rest →
    step s = .next { s with
      agenda := rest
      reads := s.reads ++ [(off,
        if size ≠ .word ∨ off.toNat % 4 ≠ 0 then 0
        else if off.toNat = 0x00 then 0x43323535
        else if off.toNat = 0x04 then BitVec.ofNat 32 s.ie.toNat
        else if off.toNat = 0x08 then
          BitVec.ofNat 32 (s.busy.toNat + 2 * s.done.toNat + 4 * s.err.toNat + 8 * s.flag.toNat + 16 * s.cmpr.toNat +
            256 * s.errcode.toNat)
        else if off.toNat = 0x10 then s.data
        else 0)] }

/-- R73 with R312 and R311: what a host write does at each offset; each refused write sets ERR and ERRCODE and changes
nothing else. -/
def Obligations.BusWriteActsOnRegister : Prop :=
  ∀ (s : State) (off : Offset) (size : AccessSize) (v : Word) (rest : List Event),
    s.agenda = .bus (.write off size v) :: rest →
    (let s' : State := { s with agenda := rest }
     step s = .next
      (if size ≠ .word ∨ off.toNat % 4 ≠ 0 then { s' with err := true, errcode := 1 }
       else if off.toNat = 0x00 then s'
       else if off.toNat = 0x04 then
         if v.getLsbD 1 then { State.reset with agenda := rest, reads := s.reads, draws := s.draws }
         else { s' with ie := v.getLsbD 0 }
       else if off.toNat = 0x08 then
         { s' with
           done := s.done && !v.getLsbD 1
           err := s.err && !v.getLsbD 2
           errcode := if v.getLsbD 2 then 0 else s.errcode }
       else if off.toNat = 0x0C then
         if s.busy then { s' with err := true, errcode := 2 }
         else match decode v with
           | .illop => { s' with err := true, errcode := 3 }
           | .illopnd => { s' with err := true, errcode := 4 }
           | .command i => { s' with pend := some i, busy := true, done := false }
       else if off.toNat = 0x10 then
         if s.busy then { s' with err := true, errcode := 2 } else { s' with data := v }
       else { s' with err := true, errcode := 1 }))

/-- R51: between acceptance and completion nothing a body reads can change: with BUSY = 1, no event but the completion and
a reset (hardware, or CTRL bit 1) changes K, DATA, FLAG, CMPR or PEND, or ends BUSY. DERIVED. -/
def Obligations.BusyBlockHoldsOperands : Prop :=
  ∀ (s : State) (e : Event) (rest : List Event), s.busy = true → s.agenda = e :: rest → e ≠ .completion →
    (∀ lost, e ≠ .reset lost) → (∀ v : Word, v.getLsbD 1 = true → e ≠ .bus (.write 0x04 .word v)) →
    ∃ t, step s = .next t ∧ t.K = s.K ∧ t.data = s.data ∧ t.flag = s.flag ∧ t.cmpr = s.cmpr ∧ t.pend = s.pend ∧
      t.busy = true

/-- R40, R311 and R372: a step changes ERR or ERRCODE only if it is a refused host write, which sets ERR, records a code of
1 .. 4 and changes nothing else, or a STATUS write with bit 2 set, which clears both, or a reset; ERR falls by the latter
two alone and rises by the first alone; and every refused write does so. DERIVED: R40's other clauses are in other
statements. -/
def Obligations.ErrorRecordChangesOnlyByHost : Prop :=
  ∀ s t : State, step s = .next t →
    (s.err = true → t.err = false →
      ∃ rest, (∃ v : Word, v.getLsbD 2 = true ∧ s.agenda = .bus (.write 0x08 .word v) :: rest) ∨
        (∃ v : Word, v.getLsbD 1 = true ∧ s.agenda = .bus (.write 0x04 .word v) :: rest) ∨
        (∃ lost, s.agenda = .reset lost :: rest)) ∧
    (s.err = false → t.err = true →
      ∃ off size v rest, s.agenda = .bus (.write off size v) :: rest ∧ s.RefusesWrite off size v ∧
        1 ≤ t.errcode.toNat ∧ t.errcode.toNat ≤ 4 ∧
        t = { s with agenda := rest, err := true, errcode := t.errcode }) ∧
    (t.err ≠ s.err ∨ t.errcode ≠ s.errcode →
      ∃ rest, (∃ off size v, s.agenda = .bus (.write off size v) :: rest ∧ s.RefusesWrite off size v ∧
          1 ≤ t.errcode.toNat ∧ t.errcode.toNat ≤ 4 ∧
          t = { s with agenda := rest, err := true, errcode := t.errcode }) ∨
        (∃ v : Word, v.getLsbD 2 = true ∧ s.agenda = .bus (.write 0x08 .word v) :: rest ∧ t.err = false ∧ t.errcode = 0) ∨
        (∃ v : Word, v.getLsbD 1 = true ∧ s.agenda = .bus (.write 0x04 .word v) :: rest ∧ t.err = false ∧ t.errcode = 0) ∨
        (∃ lost, s.agenda = .reset lost :: rest ∧ t.err = false ∧ t.errcode = 0)) ∧
    (∀ off size v rest, s.agenda = .bus (.write off size v) :: rest → s.RefusesWrite off size v →
      1 ≤ t.errcode.toNat ∧ t.errcode.toNat ≤ 4 ∧ t = { s with agenda := rest, err := true, errcode := t.errcode })

/-- R350, R351: a hardware reset, and a CTRL write with bit 1 set, BUSY or not, take every field of the block to its reset
value; a pending command is discarded. A transaction that coincides with a hardware reset is lost: a write has no effect,
a read returns any value (R316; log entry 3). DERIVED. -/
def Obligations.ResetsRestoreResetValues : Prop :=
  ∀ (s : State) (rest : List Event),
    (let fresh : State := { State.reset with agenda := rest, reads := s.reads, draws := s.draws }
     (s.agenda = .reset none :: rest → step s = .next fresh) ∧
     (∀ off size v, s.agenda = .reset (some (.write off size v)) :: rest → step s = .next fresh) ∧
     (∀ off size, s.agenda = .reset (some (.read off size)) :: rest →
       ∃ x, step s = .next { fresh with reads := s.reads ++ [(off, x)], draws := s.draws + 1 }) ∧
     (∀ v : Word, v.getLsbD 1 = true → s.agenda = .bus (.write 0x04 .word v) :: rest → step s = .next fresh))

/-- R320, R39, R42: irq is IE & (DONE | ERR) and follows every event: a completion and a command error raise it when IE = 1;
acknowledging both bits, or clearing IE, drops it; setting IE raises it at once when DONE or ERR is 1. DERIVED. -/
def Obligations.InterruptLineFollowsEvents : Prop :=
  (∀ (i : Instr) (s t : State), exec i s = .next t → t.irq = s.ie) ∧
  (∀ (s : State) (c : ErrCause), (s.cmdError c).irq = s.ie) ∧
  (∀ (s : State) (v : Word), v.getLsbD 1 = true → v.getLsbD 2 = true → (s.busWrite 0x08 .word v).irq = false) ∧
  (∀ (s : State) (v : Word), v.getLsbD 1 = false →
    (s.busWrite 0x04 .word v).irq = (v.getLsbD 0 && (s.done || s.err)))

/-- R316: when a write and a completion fall in one cycle, the completion is applied first; a reset wins and the other
events are lost. DERIVED (`Cycle` is the model's own, log entry 5). -/
def Obligations.SimultaneousEventsAreOrdered : Prop :=
  (∀ (off : Offset) (size : AccessSize) (v : Word),
    (Cycle.mk false true (some (.write off size v))).orders = [[.completion, .bus (.write off size v)]]) ∧
  (∀ (completes : Bool) (a : Option BusAccess), (Cycle.mk true completes a).orders = [[.reset a]])

/-- R31, R30: a host sees the key registers through commands alone: what a bus access returns, and what it does to every
other field, does not depend on K. DERIVED. -/
def Obligations.BusAccessesDoNotSeeKeys : Prop :=
  ∀ (s : State) (K : Vector Key 16) (a : BusAccess) (rest : List Event), s.agenda = .bus a :: rest →
    ∃ t t', step s = .next t ∧ step { s with K := K } = .next t' ∧ { t' with K := t.K } = t ∧
      (t.K = s.K ∧ t'.K = K ∨ t.K = State.reset.K ∧ t'.K = State.reset.K)

/-- R80: the window is the 256 bytes at C255_BASE, a multiple of 256, wherever the platform places it. DERIVED. -/
def Obligations.WindowHasEveryOffsetOnce : Prop :=
  Config.c255Base % 256 = 0 ∧
  (∀ off : Offset, windowOffset (Config.c255Base + off.toNat) = some off) ∧
  (∀ (addr : Nat) (off : Offset), windowOffset addr = some off → addr = Config.c255Base + off.toNat)
end

