-- ==== Sys2Proof/Laws/Decode.lean ====
section
/-! SUPPORT. Laws/Decode.lean: the fields of a packed word, and the word of its fields (30_encoding.md R100). -/

namespace Sys2Proof

/-- A bit of a packed word, by the field it lies in. -/
theorem getLsbD_packWord (opc : BitVec 8) (rd ra rb rc : KReg) (imm : BitVec 8) (j : Nat) :
    (packWord opc rd ra rb rc imm).getLsbD j =
      if j < 8 then imm.getLsbD j
      else if j < 12 then (BitVec.ofFin rc : BitVec 4).getLsbD (j - 8)
      else if j < 16 then (BitVec.ofFin rb : BitVec 4).getLsbD (j - 12)
      else if j < 20 then (BitVec.ofFin ra : BitVec 4).getLsbD (j - 16)
      else if j < 24 then (BitVec.ofFin rd : BitVec 4).getLsbD (j - 20)
      else opc.getLsbD (j - 24) := by
  simp only [packWord, BitVec.getLsbD_append]
  by_cases h1 : j < 8
  · simp [h1]
  by_cases h2 : j < 12
  · simp [h1, h2, show j - 8 < 4 by omega]
  by_cases h3 : j < 16
  · simp [h1, h2, h3, show ¬ j - 8 < 4 by omega, show j - 12 < 4 by omega, Nat.sub_sub]
  by_cases h4 : j < 20
  · simp [h1, h2, h3, h4, show ¬ j - 8 < 4 by omega, show ¬ j - 12 < 4 by omega, show j - 16 < 4 by omega, Nat.sub_sub]
  by_cases h5 : j < 24
  · simp [h1, h2, h3, h4, h5, show ¬ j - 8 < 4 by omega, show ¬ j - 12 < 4 by omega, show ¬ j - 16 < 4 by omega,
      show j - 20 < 4 by omega, Nat.sub_sub]
  · simp [h1, h2, h3, h4, h5, show ¬ j - 8 < 4 by omega, show ¬ j - 12 < 4 by omega, show ¬ j - 16 < 4 by omega,
      show ¬ j - 20 < 4 by omega, Nat.sub_sub]

@[simp] theorem opcField_packWord (opc : BitVec 8) (rd ra rb rc : KReg) (imm : BitVec 8) :
    opcField (packWord opc rd ra rb rc imm) = opc := by
  apply BitVec.eq_of_getLsbD_eq
  intro i hi
  simp only [opcField, BitVec.getLsbD_extractLsb', hi, decide_true, Bool.true_and, getLsbD_packWord]
  simp [show ¬ 24 + i < 8 by omega, show ¬ 24 + i < 12 by omega, show ¬ 24 + i < 16 by omega,
    show ¬ 24 + i < 20 by omega]

@[simp] theorem rdField_packWord (opc : BitVec 8) (rd ra rb rc : KReg) (imm : BitVec 8) :
    rdField (packWord opc rd ra rb rc imm) = rd := by
  suffices h : (packWord opc rd ra rb rc imm).extractLsb' 20 4 = BitVec.ofFin rd by
    simp only [rdField, h]
  apply BitVec.eq_of_getLsbD_eq
  intro i hi
  simp only [BitVec.getLsbD_extractLsb', hi, decide_true, Bool.true_and, getLsbD_packWord]
  simp [show ¬ 20 + i < 8 by omega, show ¬ 20 + i < 12 by omega, show ¬ 20 + i < 16 by omega,
    show 20 + i < 24 by omega]

@[simp] theorem raField_packWord (opc : BitVec 8) (rd ra rb rc : KReg) (imm : BitVec 8) :
    raField (packWord opc rd ra rb rc imm) = ra := by
  suffices h : (packWord opc rd ra rb rc imm).extractLsb' 16 4 = BitVec.ofFin ra by
    simp only [raField, h]
  apply BitVec.eq_of_getLsbD_eq
  intro i hi
  simp only [BitVec.getLsbD_extractLsb', hi, decide_true, Bool.true_and, getLsbD_packWord]
  simp [show ¬ 16 + i < 8 by omega, show ¬ 16 + i < 12 by omega, show 16 + i < 20 by omega]

@[simp] theorem rbField_packWord (opc : BitVec 8) (rd ra rb rc : KReg) (imm : BitVec 8) :
    rbField (packWord opc rd ra rb rc imm) = rb := by
  suffices h : (packWord opc rd ra rb rc imm).extractLsb' 12 4 = BitVec.ofFin rb by
    simp only [rbField, h]
  apply BitVec.eq_of_getLsbD_eq
  intro i hi
  simp only [BitVec.getLsbD_extractLsb', hi, decide_true, Bool.true_and, getLsbD_packWord]
  simp [show ¬ 12 + i < 8 by omega, show 12 + i < 16 by omega]

@[simp] theorem rcField_packWord (opc : BitVec 8) (rd ra rb rc : KReg) (imm : BitVec 8) :
    rcField (packWord opc rd ra rb rc imm) = rc := by
  suffices h : (packWord opc rd ra rb rc imm).extractLsb' 8 4 = BitVec.ofFin rc by
    simp only [rcField, h]
  apply BitVec.eq_of_getLsbD_eq
  intro i hi
  simp only [BitVec.getLsbD_extractLsb', hi, decide_true, Bool.true_and, getLsbD_packWord]
  simp [show 8 + i < 12 by omega]

@[simp] theorem immField_packWord (opc : BitVec 8) (rd ra rb rc : KReg) (imm : BitVec 8) :
    immField (packWord opc rd ra rb rc imm) = imm := by
  apply BitVec.eq_of_getLsbD_eq
  intro i hi
  simp [immField, hi, getLsbD_packWord]

/-- Packing a word's own fields gives the word back. -/
theorem packWord_fields (w : Word) :
    packWord (opcField w) (rdField w) (raField w) (rbField w) (rcField w) (immField w) = w := by
  apply BitVec.eq_of_getLsbD_eq
  intro i hi
  rw [getLsbD_packWord]
  simp only [opcField, rdField, raField, rbField, rcField, immField, BitVec.ofFin_toFin, BitVec.getLsbD_extractLsb']
  split
  · next h => simp [h]
  split
  · next h1 h => simp [show i - 8 < 4 by omega, show 8 + (i - 8) = i by omega]
  split
  · next h1 h => simp [show i - 12 < 4 by omega, show 12 + (i - 12) = i by omega]
  split
  · next h1 h => simp [show i - 16 < 4 by omega, show 16 + (i - 16) = i by omega]
  split
  · next h1 h => simp [show i - 20 < 4 by omega, show 20 + (i - 20) = i by omega]
  · simp [show i - 24 < 8 by omega, show 24 + (i - 24) = i by omega]

/-- The word a packed word decodes to, by its opcode's row. -/
theorem decode_packWord {opc : BitVec 8} {r : OpRow} (h : findRow opc = some r) (rd ra rb rc : KReg) (imm : BitVec 8) :
    decode (packWord opc rd ra rb rc imm) =
      if r.rd.admits rd && r.ra.admits ra && r.rb.admits rb && r.rc.admits rc && decide (imm.toNat ≤ r.immMax) &&
          !(r.distinct && rd == ra)
      then .command (r.build rd ra rb rc imm) else .illopnd := by
  simp only [decode, opcField_packWord, h, OpRow.operandsOk, rdField_packWord, raField_packWord, rbField_packWord,
    rcField_packWord, immField_packWord]

end Sys2Proof
end

