-- ==== Sys2Proof/Laws/State.lean ====
section
/-! SUPPORT. Laws/State.lean: one lemma per field per update of State, true by rfl. -/

namespace Sys2Proof.Machine

/-! ### writeK -/

@[simp] theorem writeK_data (s : State) (r : KReg) (v : Key) : (s.writeK r v).data = s.data := rfl
@[simp] theorem writeK_flag (s : State) (r : KReg) (v : Key) : (s.writeK r v).flag = s.flag := rfl
@[simp] theorem writeK_cmpr (s : State) (r : KReg) (v : Key) : (s.writeK r v).cmpr = s.cmpr := rfl
@[simp] theorem writeK_busy (s : State) (r : KReg) (v : Key) : (s.writeK r v).busy = s.busy := rfl
@[simp] theorem writeK_done (s : State) (r : KReg) (v : Key) : (s.writeK r v).done = s.done := rfl
@[simp] theorem writeK_err (s : State) (r : KReg) (v : Key) : (s.writeK r v).err = s.err := rfl
@[simp] theorem writeK_errcode (s : State) (r : KReg) (v : Key) : (s.writeK r v).errcode = s.errcode := rfl
@[simp] theorem writeK_ie (s : State) (r : KReg) (v : Key) : (s.writeK r v).ie = s.ie := rfl
@[simp] theorem writeK_pend (s : State) (r : KReg) (v : Key) : (s.writeK r v).pend = s.pend := rfl
@[simp] theorem writeK_agenda (s : State) (r : KReg) (v : Key) : (s.writeK r v).agenda = s.agenda := rfl
@[simp] theorem writeK_reads (s : State) (r : KReg) (v : Key) : (s.writeK r v).reads = s.reads := rfl
@[simp] theorem writeK_draws (s : State) (r : KReg) (v : Key) : (s.writeK r v).draws = s.draws := rfl

/-! ### setData -/

@[simp] theorem setData_K (s : State) (v : Word) : (s.setData v).K = s.K := rfl
@[simp] theorem setData_data (s : State) (v : Word) : (s.setData v).data = v := rfl
@[simp] theorem setData_flag (s : State) (v : Word) : (s.setData v).flag = s.flag := rfl
@[simp] theorem setData_cmpr (s : State) (v : Word) : (s.setData v).cmpr = s.cmpr := rfl
@[simp] theorem setData_busy (s : State) (v : Word) : (s.setData v).busy = s.busy := rfl
@[simp] theorem setData_done (s : State) (v : Word) : (s.setData v).done = s.done := rfl
@[simp] theorem setData_err (s : State) (v : Word) : (s.setData v).err = s.err := rfl
@[simp] theorem setData_errcode (s : State) (v : Word) : (s.setData v).errcode = s.errcode := rfl
@[simp] theorem setData_ie (s : State) (v : Word) : (s.setData v).ie = s.ie := rfl
@[simp] theorem setData_pend (s : State) (v : Word) : (s.setData v).pend = s.pend := rfl
@[simp] theorem setData_agenda (s : State) (v : Word) : (s.setData v).agenda = s.agenda := rfl
@[simp] theorem setData_reads (s : State) (v : Word) : (s.setData v).reads = s.reads := rfl
@[simp] theorem setData_draws (s : State) (v : Word) : (s.setData v).draws = s.draws := rfl
@[simp] theorem setData_readK (s : State) (v : Word) (q : KReg) : (s.setData v).readK q = s.readK q := rfl

/-! ### setFlag -/

@[simp] theorem setFlag_K (s : State) (b : Bool) : (s.setFlag b).K = s.K := rfl
@[simp] theorem setFlag_data (s : State) (b : Bool) : (s.setFlag b).data = s.data := rfl
@[simp] theorem setFlag_flag (s : State) (b : Bool) : (s.setFlag b).flag = b := rfl
@[simp] theorem setFlag_cmpr (s : State) (b : Bool) : (s.setFlag b).cmpr = s.cmpr := rfl
@[simp] theorem setFlag_busy (s : State) (b : Bool) : (s.setFlag b).busy = s.busy := rfl
@[simp] theorem setFlag_done (s : State) (b : Bool) : (s.setFlag b).done = s.done := rfl
@[simp] theorem setFlag_err (s : State) (b : Bool) : (s.setFlag b).err = s.err := rfl
@[simp] theorem setFlag_errcode (s : State) (b : Bool) : (s.setFlag b).errcode = s.errcode := rfl
@[simp] theorem setFlag_ie (s : State) (b : Bool) : (s.setFlag b).ie = s.ie := rfl
@[simp] theorem setFlag_pend (s : State) (b : Bool) : (s.setFlag b).pend = s.pend := rfl
@[simp] theorem setFlag_agenda (s : State) (b : Bool) : (s.setFlag b).agenda = s.agenda := rfl
@[simp] theorem setFlag_reads (s : State) (b : Bool) : (s.setFlag b).reads = s.reads := rfl
@[simp] theorem setFlag_draws (s : State) (b : Bool) : (s.setFlag b).draws = s.draws := rfl
@[simp] theorem setFlag_readK (s : State) (b : Bool) (q : KReg) : (s.setFlag b).readK q = s.readK q := rfl

/-! ### setCmpr -/

@[simp] theorem setCmpr_K (s : State) (c : BitVec 2) : (s.setCmpr c).K = s.K := rfl
@[simp] theorem setCmpr_data (s : State) (c : BitVec 2) : (s.setCmpr c).data = s.data := rfl
@[simp] theorem setCmpr_flag (s : State) (c : BitVec 2) : (s.setCmpr c).flag = s.flag := rfl
@[simp] theorem setCmpr_cmpr (s : State) (c : BitVec 2) : (s.setCmpr c).cmpr = c := rfl
@[simp] theorem setCmpr_busy (s : State) (c : BitVec 2) : (s.setCmpr c).busy = s.busy := rfl
@[simp] theorem setCmpr_done (s : State) (c : BitVec 2) : (s.setCmpr c).done = s.done := rfl
@[simp] theorem setCmpr_err (s : State) (c : BitVec 2) : (s.setCmpr c).err = s.err := rfl
@[simp] theorem setCmpr_errcode (s : State) (c : BitVec 2) : (s.setCmpr c).errcode = s.errcode := rfl
@[simp] theorem setCmpr_ie (s : State) (c : BitVec 2) : (s.setCmpr c).ie = s.ie := rfl
@[simp] theorem setCmpr_pend (s : State) (c : BitVec 2) : (s.setCmpr c).pend = s.pend := rfl
@[simp] theorem setCmpr_agenda (s : State) (c : BitVec 2) : (s.setCmpr c).agenda = s.agenda := rfl
@[simp] theorem setCmpr_reads (s : State) (c : BitVec 2) : (s.setCmpr c).reads = s.reads := rfl
@[simp] theorem setCmpr_draws (s : State) (c : BitVec 2) : (s.setCmpr c).draws = s.draws := rfl
@[simp] theorem setCmpr_readK (s : State) (c : BitVec 2) (q : KReg) : (s.setCmpr c).readK q = s.readK q := rfl

/-! ### completed -/

@[simp] theorem completed_K (s : State) : (s.completed).K = s.K := rfl
@[simp] theorem completed_data (s : State) : (s.completed).data = s.data := rfl
@[simp] theorem completed_flag (s : State) : (s.completed).flag = s.flag := rfl
@[simp] theorem completed_cmpr (s : State) : (s.completed).cmpr = s.cmpr := rfl
@[simp] theorem completed_busy (s : State) : (s.completed).busy = false := rfl
@[simp] theorem completed_done (s : State) : (s.completed).done = true := rfl
@[simp] theorem completed_err (s : State) : (s.completed).err = s.err := rfl
@[simp] theorem completed_errcode (s : State) : (s.completed).errcode = s.errcode := rfl
@[simp] theorem completed_ie (s : State) : (s.completed).ie = s.ie := rfl
@[simp] theorem completed_pend (s : State) : (s.completed).pend = none := rfl
@[simp] theorem completed_agenda (s : State) : (s.completed).agenda = s.agenda := rfl
@[simp] theorem completed_reads (s : State) : (s.completed).reads = s.reads := rfl
@[simp] theorem completed_draws (s : State) : (s.completed).draws = s.draws := rfl
@[simp] theorem completed_readK (s : State) (q : KReg) : (s.completed).readK q = s.readK q := rfl

/-! ### accept -/

@[simp] theorem accept_K (s : State) (i : Instr) : (s.accept i).K = s.K := rfl
@[simp] theorem accept_data (s : State) (i : Instr) : (s.accept i).data = s.data := rfl
@[simp] theorem accept_flag (s : State) (i : Instr) : (s.accept i).flag = s.flag := rfl
@[simp] theorem accept_cmpr (s : State) (i : Instr) : (s.accept i).cmpr = s.cmpr := rfl
@[simp] theorem accept_busy (s : State) (i : Instr) : (s.accept i).busy = true := rfl
@[simp] theorem accept_done (s : State) (i : Instr) : (s.accept i).done = false := rfl
@[simp] theorem accept_err (s : State) (i : Instr) : (s.accept i).err = s.err := rfl
@[simp] theorem accept_errcode (s : State) (i : Instr) : (s.accept i).errcode = s.errcode := rfl
@[simp] theorem accept_ie (s : State) (i : Instr) : (s.accept i).ie = s.ie := rfl
@[simp] theorem accept_pend (s : State) (i : Instr) : (s.accept i).pend = some i := rfl
@[simp] theorem accept_agenda (s : State) (i : Instr) : (s.accept i).agenda = s.agenda := rfl
@[simp] theorem accept_reads (s : State) (i : Instr) : (s.accept i).reads = s.reads := rfl
@[simp] theorem accept_draws (s : State) (i : Instr) : (s.accept i).draws = s.draws := rfl
@[simp] theorem accept_readK (s : State) (i : Instr) (q : KReg) : (s.accept i).readK q = s.readK q := rfl

/-! ### cmdError -/

@[simp] theorem cmdError_K (s : State) (c : ErrCause) : (s.cmdError c).K = s.K := rfl
@[simp] theorem cmdError_data (s : State) (c : ErrCause) : (s.cmdError c).data = s.data := rfl
@[simp] theorem cmdError_flag (s : State) (c : ErrCause) : (s.cmdError c).flag = s.flag := rfl
@[simp] theorem cmdError_cmpr (s : State) (c : ErrCause) : (s.cmdError c).cmpr = s.cmpr := rfl
@[simp] theorem cmdError_busy (s : State) (c : ErrCause) : (s.cmdError c).busy = s.busy := rfl
@[simp] theorem cmdError_done (s : State) (c : ErrCause) : (s.cmdError c).done = s.done := rfl
@[simp] theorem cmdError_err (s : State) (c : ErrCause) : (s.cmdError c).err = true := rfl
@[simp] theorem cmdError_errcode (s : State) (c : ErrCause) : (s.cmdError c).errcode = c.code := rfl
@[simp] theorem cmdError_ie (s : State) (c : ErrCause) : (s.cmdError c).ie = s.ie := rfl
@[simp] theorem cmdError_pend (s : State) (c : ErrCause) : (s.cmdError c).pend = s.pend := rfl
@[simp] theorem cmdError_agenda (s : State) (c : ErrCause) : (s.cmdError c).agenda = s.agenda := rfl
@[simp] theorem cmdError_reads (s : State) (c : ErrCause) : (s.cmdError c).reads = s.reads := rfl
@[simp] theorem cmdError_draws (s : State) (c : ErrCause) : (s.cmdError c).draws = s.draws := rfl
@[simp] theorem cmdError_readK (s : State) (c : ErrCause) (q : KReg) : (s.cmdError c).readK q = s.readK q := rfl

/-! ### clearDone -/

@[simp] theorem clearDone_K (s : State) : (s.clearDone).K = s.K := rfl
@[simp] theorem clearDone_data (s : State) : (s.clearDone).data = s.data := rfl
@[simp] theorem clearDone_flag (s : State) : (s.clearDone).flag = s.flag := rfl
@[simp] theorem clearDone_cmpr (s : State) : (s.clearDone).cmpr = s.cmpr := rfl
@[simp] theorem clearDone_busy (s : State) : (s.clearDone).busy = s.busy := rfl
@[simp] theorem clearDone_done (s : State) : (s.clearDone).done = false := rfl
@[simp] theorem clearDone_err (s : State) : (s.clearDone).err = s.err := rfl
@[simp] theorem clearDone_errcode (s : State) : (s.clearDone).errcode = s.errcode := rfl
@[simp] theorem clearDone_ie (s : State) : (s.clearDone).ie = s.ie := rfl
@[simp] theorem clearDone_pend (s : State) : (s.clearDone).pend = s.pend := rfl
@[simp] theorem clearDone_agenda (s : State) : (s.clearDone).agenda = s.agenda := rfl
@[simp] theorem clearDone_reads (s : State) : (s.clearDone).reads = s.reads := rfl
@[simp] theorem clearDone_draws (s : State) : (s.clearDone).draws = s.draws := rfl
@[simp] theorem clearDone_readK (s : State) (q : KReg) : (s.clearDone).readK q = s.readK q := rfl

/-! ### clearErr -/

@[simp] theorem clearErr_K (s : State) : (s.clearErr).K = s.K := rfl
@[simp] theorem clearErr_data (s : State) : (s.clearErr).data = s.data := rfl
@[simp] theorem clearErr_flag (s : State) : (s.clearErr).flag = s.flag := rfl
@[simp] theorem clearErr_cmpr (s : State) : (s.clearErr).cmpr = s.cmpr := rfl
@[simp] theorem clearErr_busy (s : State) : (s.clearErr).busy = s.busy := rfl
@[simp] theorem clearErr_done (s : State) : (s.clearErr).done = s.done := rfl
@[simp] theorem clearErr_err (s : State) : (s.clearErr).err = false := rfl
@[simp] theorem clearErr_errcode (s : State) : (s.clearErr).errcode = 0 := rfl
@[simp] theorem clearErr_ie (s : State) : (s.clearErr).ie = s.ie := rfl
@[simp] theorem clearErr_pend (s : State) : (s.clearErr).pend = s.pend := rfl
@[simp] theorem clearErr_agenda (s : State) : (s.clearErr).agenda = s.agenda := rfl
@[simp] theorem clearErr_reads (s : State) : (s.clearErr).reads = s.reads := rfl
@[simp] theorem clearErr_draws (s : State) : (s.clearErr).draws = s.draws := rfl
@[simp] theorem clearErr_readK (s : State) (q : KReg) : (s.clearErr).readK q = s.readK q := rfl

/-! ### receive -/

@[simp] theorem receive_K (s : State) (o : Offset) (v : Word) : (s.receive o v).K = s.K := rfl
@[simp] theorem receive_data (s : State) (o : Offset) (v : Word) : (s.receive o v).data = s.data := rfl
@[simp] theorem receive_flag (s : State) (o : Offset) (v : Word) : (s.receive o v).flag = s.flag := rfl
@[simp] theorem receive_cmpr (s : State) (o : Offset) (v : Word) : (s.receive o v).cmpr = s.cmpr := rfl
@[simp] theorem receive_busy (s : State) (o : Offset) (v : Word) : (s.receive o v).busy = s.busy := rfl
@[simp] theorem receive_done (s : State) (o : Offset) (v : Word) : (s.receive o v).done = s.done := rfl
@[simp] theorem receive_err (s : State) (o : Offset) (v : Word) : (s.receive o v).err = s.err := rfl
@[simp] theorem receive_errcode (s : State) (o : Offset) (v : Word) : (s.receive o v).errcode = s.errcode := rfl
@[simp] theorem receive_ie (s : State) (o : Offset) (v : Word) : (s.receive o v).ie = s.ie := rfl
@[simp] theorem receive_pend (s : State) (o : Offset) (v : Word) : (s.receive o v).pend = s.pend := rfl
@[simp] theorem receive_agenda (s : State) (o : Offset) (v : Word) : (s.receive o v).agenda = s.agenda := rfl
@[simp] theorem receive_reads (s : State) (o : Offset) (v : Word) : (s.receive o v).reads = s.reads ++ [(o, v)] := rfl
@[simp] theorem receive_draws (s : State) (o : Offset) (v : Word) : (s.receive o v).draws = s.draws := rfl
@[simp] theorem receive_readK (s : State) (o : Offset) (v : Word) (q : KReg) : (s.receive o v).readK q = s.readK q := rfl

/-! ### blockReset -/

@[simp] theorem blockReset_K (s : State) : (s.blockReset).K = State.reset.K := rfl
@[simp] theorem blockReset_data (s : State) : (s.blockReset).data = 0 := rfl
@[simp] theorem blockReset_flag (s : State) : (s.blockReset).flag = false := rfl
@[simp] theorem blockReset_cmpr (s : State) : (s.blockReset).cmpr = 0 := rfl
@[simp] theorem blockReset_busy (s : State) : (s.blockReset).busy = false := rfl
@[simp] theorem blockReset_done (s : State) : (s.blockReset).done = false := rfl
@[simp] theorem blockReset_err (s : State) : (s.blockReset).err = false := rfl
@[simp] theorem blockReset_errcode (s : State) : (s.blockReset).errcode = 0 := rfl
@[simp] theorem blockReset_ie (s : State) : (s.blockReset).ie = false := rfl
@[simp] theorem blockReset_pend (s : State) : (s.blockReset).pend = none := rfl
@[simp] theorem blockReset_agenda (s : State) : (s.blockReset).agenda = s.agenda := rfl
@[simp] theorem blockReset_reads (s : State) : (s.blockReset).reads = s.reads := rfl
@[simp] theorem blockReset_draws (s : State) : (s.blockReset).draws = s.draws := rfl

end Sys2Proof.Machine
end

