-- ==== Sys2Proof/Laws/Operands.lean ====
section
/-! SUPPORT. Laws/Operands.lean: what the operand operations do: key registers, point pairs, fields of a key, the swap. -/

namespace Sys2Proof.Machine

/-! ### Key registers -/

theorem readK_writeK (s : State) (r q : KReg) (v : Key) :
    (s.writeK r v).readK q = if q = r then v else s.readK q := by
  simp [State.readK, State.writeK, Vector.getElem_set, Fin.ext_iff, eq_comm]

@[simp] theorem readK_writeK_same (s : State) (r : KReg) (v : Key) : (s.writeK r v).readK r = v := by
  simp [readK_writeK]

theorem readK_writeK_ne (s : State) {r q : KReg} (v : Key) (h : q ≠ r) : (s.writeK r v).readK q = s.readK q := by
  simp [readK_writeK, h]

/-- Two register files that read the same everywhere are the same. -/
theorem K_ext {s t : State} (h : ∀ r, t.readK r = s.readK r) : t.K = s.K := by
  apply Vector.ext
  intro i hi
  exact h ⟨i, hi⟩

@[simp] theorem reset_readK (r : KReg) : State.reset.readK r = 0 := by
  simp [State.readK, State.reset]

@[simp] theorem blockReset_readK (s : State) (r : KReg) : s.blockReset.readK r = 0 := reset_readK r

/-! ### Point pairs -/

theorem pairZ_ne (r : KReg) : pairZ r ≠ r := by revert r; decide

theorem pairZ_inj {r q : KReg} (h : pairZ r = pairZ q) : r = q := by
  simpa [pairZ] using h

/-- An even register is no pair's Z register. -/
theorem pairZ_ne_of_isPair {r q : KReg} (hr : r.isPair) (hq : q.isPair) : pairZ r ≠ q := by
  revert r q; decide

theorem pairZ_val {r : KReg} (h : r.isPair) : (pairZ r).val = r.val + 1 := by revert r; decide

theorem readK_writePoint (s : State) (r q : KReg) (pt : Point) :
    (s.writePoint r pt).readK q = if q = pairZ r then pt.Z else if q = r then pt.X else s.readK q := by
  simp only [State.writePoint, readK_writeK]

@[simp] theorem readPoint_writePoint_same (s : State) (r : KReg) (pt : Point) :
    (s.writePoint r pt).readPoint r = pt := by
  simp [State.readPoint, readK_writePoint, (pairZ_ne r).symm]

@[simp] theorem writePoint_data (s : State) (r : KReg) (q : Point) : (s.writePoint r q).data = s.data := rfl
@[simp] theorem writePoint_flag (s : State) (r : KReg) (q : Point) : (s.writePoint r q).flag = s.flag := rfl
@[simp] theorem writePoint_cmpr (s : State) (r : KReg) (q : Point) : (s.writePoint r q).cmpr = s.cmpr := rfl
@[simp] theorem writePoint_busy (s : State) (r : KReg) (q : Point) : (s.writePoint r q).busy = s.busy := rfl
@[simp] theorem writePoint_done (s : State) (r : KReg) (q : Point) : (s.writePoint r q).done = s.done := rfl
@[simp] theorem writePoint_err (s : State) (r : KReg) (q : Point) : (s.writePoint r q).err = s.err := rfl
@[simp] theorem writePoint_errcode (s : State) (r : KReg) (q : Point) : (s.writePoint r q).errcode = s.errcode := rfl
@[simp] theorem writePoint_ie (s : State) (r : KReg) (q : Point) : (s.writePoint r q).ie = s.ie := rfl
@[simp] theorem writePoint_pend (s : State) (r : KReg) (q : Point) : (s.writePoint r q).pend = s.pend := rfl
@[simp] theorem writePoint_agenda (s : State) (r : KReg) (q : Point) : (s.writePoint r q).agenda = s.agenda := rfl
@[simp] theorem writePoint_reads (s : State) (r : KReg) (q : Point) : (s.writePoint r q).reads = s.reads := rfl
@[simp] theorem writePoint_draws (s : State) (r : KReg) (q : Point) : (s.writePoint r q).draws = s.draws := rfl

/-! ### Fields of a key -/

/-- Every bit of a key after one of its fields is replaced. -/
theorem getLsbD_setField {n : Nat} (x : Key) (lo : Nat) (v : BitVec n) (i : Nat) (hi : i < 256) :
    (setField x lo v).getLsbD i = if lo ≤ i ∧ i < lo + n then v.getLsbD (i - lo) else x.getLsbD i := by
  simp only [setField, BitVec.getLsbD_or, BitVec.getLsbD_and, BitVec.getLsbD_not, BitVec.getLsbD_shiftLeft,
    BitVec.getLsbD_setWidth, BitVec.getLsbD_allOnes, hi, decide_true, Bool.true_and]
  by_cases h1 : i < lo
  · have : ¬ (lo ≤ i ∧ i < lo + n) := by omega
    simp [h1, this]
  · have h3 : i - lo < 256 := by omega
    by_cases h2 : i < lo + n
    · have h4 : i - lo < n := by omega
      have : lo ≤ i ∧ i < lo + n := by omega
      simp [h1, h3, h4, this]
    · have h4 : ¬ i - lo < n := by omega
      have : ¬ (lo ≤ i ∧ i < lo + n) := by omega
      have h5 : v.getLsbD (i - lo) = false := BitVec.getLsbD_of_ge _ _ (by omega)
      simp [h1, h4, this, h5]

theorem keyByte_toNat (x : Key) (b : Nat) : (keyByte x b).toNat = x.toNat / 2 ^ (8 * b) % 2 ^ 8 := by
  simp [keyByte, BitVec.extractLsb'_toNat, Nat.shiftRight_eq_div_pow]

theorem keyWord_toNat (x : Key) (w : Nat) : (keyWord x w).toNat = x.toNat / 2 ^ (32 * w) % 2 ^ 32 := by
  simp [keyWord, BitVec.extractLsb'_toNat, Nat.shiftRight_eq_div_pow]

/-! ### The conditional swap -/

theorem swapMask_false : swapMask false = 0#256 := rfl
theorem swapMask_true : swapMask true = BitVec.allOnes 256 := rfl

theorem maskedSelect_swapMask (s : Bool) (a b : Key) : maskedSelect (swapMask s) a b = if s then b else a := by
  cases s
  · rw [swapMask_false, maskedSelect, BitVec.not_zero, BitVec.and_allOnes, BitVec.and_zero, BitVec.or_zero]; rfl
  · rw [swapMask_true, maskedSelect, BitVec.not_allOnes, BitVec.and_allOnes, BitVec.and_zero, BitVec.zero_or]; rfl

theorem cswapPair_eq (s : Bool) (a b : Key) : cswapPair s a b = if s then (b, a) else (a, b) := by
  cases s <;> simp [cswapPair, maskedSelect_swapMask]

theorem cswapPoints_eq (s : Bool) (q r : Point) : cswapPoints s q r = if s then (r, q) else (q, r) := by
  cases s <;> simp [cswapPoints, cswapPair_eq]

end Sys2Proof.Machine
end

