-- ==== Sys2Proof/Laws/Exec.lean ====
section
/-! SUPPORT. Laws/Exec.lean: what each shared operation and each event can do, said once. -/

namespace Sys2Proof.Machine

/-! ### The table as an argument -/

/-- This hardware is the instance at the default table (42_compare_validate.md R232). -/
theorem execOver_default : execOver defaultTable = exec := by
  funext i s
  cases i <;> rfl

theorem stepOver_default : stepOver defaultTable = step := by
  funext s
  simp only [stepOver, step, execOver_default]

theorem coreOver_default : coreOver defaultTable = Sys2Proof.core := by
  simp only [coreOver, Sys2Proof.core, stepOver_default]

/-- The constant ROM has an entry for every index R47 lists. -/
theorem constRomOver_get (table : UnsafeTable) {n : Nat} (h : n ≤ 14) : ∃ v, (constRomOver table)[n]? = some v := by
  have hl : (constRomOver table).length = 15 := by simp [constRomOver, table.length_eq]
  exact ⟨(constRomOver table)[n]'(by omega), List.getElem?_eq_getElem _⟩

theorem execLdcOver_of_le (table : UnsafeTable) {idx : BitVec 8} (h : idx.toNat ≤ 14) (rd : KReg) (s : State) :
    ∃ v, (constRomOver table)[idx.toNat]? = some v ∧ execLdcOver table rd idx s = .next (s.writeK rd v).completed := by
  obtain ⟨v, hv⟩ := constRomOver_get table h
  exact ⟨v, hv, by simp [execLdcOver, hv]⟩

/-! ### Commands -/

/-- The only thing a completion can write, whatever the table: K, DATA, FLAG and CMPR, besides ending the command (R50). -/
theorem execOver_next {table : UnsafeTable} {i : Instr} {s t : State} (h : execOver table i s = .next t) :
    ∃ K data flag cmpr, t = ({ s with K := K, data := data, flag := flag, cmpr := cmpr } : State).completed := by
  cases i <;> simp only [execOver, exec] at h
  case ldc rd idx =>
    unfold execLdcOver at h
    split at h
    · cases h; exact ⟨_, _, _, _, rfl⟩
    · cases h
  all_goals (cases h; exact ⟨_, _, _, _, rfl⟩)

theorem exec_next {i : Instr} {s t : State} (h : exec i s = .next t) :
    ∃ K data flag cmpr, t = ({ s with K := K, data := data, flag := flag, cmpr := cmpr } : State).completed := by
  rw [← execOver_default] at h
  exact execOver_next h

/-! ### The command error and acceptance -/

/-- R312: what a CMD write can do. -/
theorem issue_cases (s : State) (v : Word) :
    (s.busy = true ∧ s.issue v = s.cmdError .busy) ∨
    (s.busy = false ∧ decode v = .illop ∧ s.issue v = s.cmdError .illop) ∨
    (s.busy = false ∧ decode v = .illopnd ∧ s.issue v = s.cmdError .illopnd) ∨
    (s.busy = false ∧ ∃ i, decode v = .command i ∧ s.issue v = s.accept i) := by
  unfold State.issue
  cases hb : s.busy
  · cases hd : decode v <;> simp
  · simp

/-- R73: what a write can do. -/
theorem busWrite_cases (s : State) (off : Offset) (size : AccessSize) (v : Word) :
    s.busWrite off size v = s ∨
    s.busWrite off size v = s.cmdError .badacc ∨
    s.busWrite off size v = s.blockReset ∨
    s.busWrite off size v = { s with ie := v.getLsbD 0 } ∨
    s.busWrite off size v = s.writeStatus v ∨
    s.busWrite off size v = s.issue v ∨
    (s.busy = true ∧ s.busWrite off size v = s.cmdError .busy) ∨
    (s.busy = false ∧ s.busWrite off size v = s.setData v) := by
  unfold State.busWrite
  split
  · cases hostRegAt off
    case id => simp
    case ctrl =>
      simp only [State.writeCtrl]
      split
      · exact .inr (.inr (.inl rfl))
      · exact .inr (.inr (.inr (.inl rfl)))
    case status => simp
    case cmd => simp
    case data => cases hb : s.busy <;> simp [State.writeData, State.setData, hb]
    case unmapped => simp
  · simp

/-- R43: what a STATUS write can do. -/
theorem writeStatus_cases (s : State) (v : Word) :
    s.writeStatus v = s ∨ s.writeStatus v = s.clearDone ∨ s.writeStatus v = s.clearErr ∨
      s.writeStatus v = s.clearDone.clearErr := by
  unfold State.writeStatus
  cases v.getLsbD 1 <;> cases v.getLsbD 2 <;> simp

/-! ### Events -/

/-- The completion event. -/
theorem complete_cases {run : Instr → State → Result} {s t : State} (h : s.complete run = .next t) :
    (s.pend = none ∧ t = s) ∨ (∃ i, s.pend = some i ∧ i.wellFormed = true ∧ run i s = .next t) := by
  unfold State.complete at h
  split at h
  · next hp => cases h; exact .inl ⟨hp, rfl⟩
  · next i hp =>
    split at h
    · next hw => exact .inr ⟨i, hp, hw, h⟩
    · cases h

/-- What one poll of STATUS does. -/
theorem pollStatus_cases (s : State) (n : Nat) :
    ∃ ag, s.pollStatus n = { s.receive 0x08 (s.busRead 0x08 .word) with agenda := ag } := by
  unfold State.pollStatus
  split
  · cases n <;> exact ⟨_, rfl⟩
  · exact ⟨_, rfl⟩

/-- What a hardware reset does. -/
theorem hardReset_cases (s : State) (lost : Option BusAccess) :
    ∃ reads draws, s.hardReset lost = { s.blockReset with reads := reads, draws := draws } := by
  unfold State.hardReset
  cases lost with
  | none => exact ⟨_, _, rfl⟩
  | some a => cases a <;> exact ⟨_, _, rfl⟩

/-- One step is the head of the agenda, or, when the agenda is empty, a completion. -/
theorem advance_cases {run : Instr → State → Result} {s t : State} (h : s.advance run = .next t) :
    (s.agenda = [] ∧ s.complete run = .next t) ∨
    (∃ e rest, s.agenda = e :: rest ∧ ({ s with agenda := rest } : State).happen run e = .next t) := by
  unfold State.advance at h
  split at h
  · next ha => exact .inl ⟨ha, h⟩
  · next e rest ha => exact .inr ⟨e, rest, ha, h⟩

theorem advance_cons {run : Instr → State → Result} {s : State} {e : Event} {rest : List Event}
    (h : s.agenda = e :: rest) : s.advance run = ({ s with agenda := rest } : State).happen run e := by
  simp [State.advance, h]

theorem advance_nil {run : Instr → State → Result} {s : State} (h : s.agenda = []) :
    s.advance run = s.complete run := by
  simp [State.advance, h]

theorem step_cases {s t : State} (h : step s = .next t) :
    (s.agenda = [] ∧ s.complete exec = .next t) ∨
    (∃ e rest, s.agenda = e :: rest ∧ ({ s with agenda := rest } : State).happen exec e = .next t) :=
  advance_cases h

theorem step_cons {s : State} {e : Event} {rest : List Event} (h : s.agenda = e :: rest) :
    step s = ({ s with agenda := rest } : State).happen exec e := advance_cons h

theorem step_nil {s : State} (h : s.agenda = []) : step s = s.complete exec := advance_nil h

end Sys2Proof.Machine
end

