-- ==== Sys2Proof/Laws/FieldMath.lean ====
section
/-! SUPPORT. Laws/FieldMath.lean: what the field operations compute, as integers mod p. -/

namespace Sys2Proof.Machine

theorem p_pos : (0 : Int) < (p : Int) := by decide
theorem p_lt : p < 2 ^ 256 := by decide

/-- `modp` denotes the integer's residue. -/
theorem modp_int (n : Int) : int (modp n) = n % (p : Int) := by
  have h0 : 0 ≤ n % (p : Int) := Int.emod_nonneg _ (by decide)
  have h1 : n % (p : Int) < (p : Int) := Int.emod_lt_of_pos _ p_pos
  have h2 : (n % (p : Int)).toNat < 2 ^ 256 := by have := p_lt; omega
  simp only [int, modp, BitVec.toNat_ofNat, Nat.mod_eq_of_lt h2]
  omega

/-- Every `modp` is canonical (R11, R140). -/
theorem modp_lt (n : Int) : (modp n).toNat < p := by
  have h := modp_int n
  have h1 : n % (p : Int) < (p : Int) := Int.emod_lt_of_pos _ p_pos
  simp only [int] at h
  omega

/-- Integers with the same residue give the same value. -/
theorem modp_congr {m n : Int} (h : m % (p : Int) = n % (p : Int)) : modp m = modp n := by
  simp only [modp, h]

@[simp] theorem add_int (a b : Key) : int (add a b) = (int a + int b) % (p : Int) := modp_int _
@[simp] theorem sub_int (a b : Key) : int (sub a b) = (int a - int b) % (p : Int) := modp_int _
@[simp] theorem mul_int (a b : Key) : int (mul a b) = (int a * int b) % (p : Int) := modp_int _
@[simp] theorem sqr_int (a : Key) : int (sqr a) = (int a * int a) % (p : Int) := modp_int _
@[simp] theorem muls_int (a : Key) : int (muls a) = (int a * (a24 : Int)) % (p : Int) := modp_int _

/-- Square-and-multiply computes the power. -/
theorem powMod_eq (m : Nat) : ∀ bits b e, e < 2 ^ bits → powMod m bits b e = b ^ e % m
  | 0, b, e, h => by
    have : e = 0 := by simpa using h
    simp [powMod, this]
  | bits + 1, b, e, h => by
    have he : e / 2 < 2 ^ bits := by rw [Nat.pow_succ] at h; omega
    have ih := powMod_eq m bits (b * b % m) (e / 2) he
    have hsq : (b * b % m) ^ (e / 2) % m = b ^ (2 * (e / 2)) % m := by
      rw [← Nat.pow_mod, pow_mul, pow_two]
    unfold powMod
    split
    · next hodd =>
      have e2 : e = 2 * (e / 2) + 1 := by omega
      rw [ih, hsq]
      conv_rhs => rw [e2, pow_succ, mul_comm]
      rw [Nat.mul_mod_mod]
    · next heven =>
      have e2 : e = 2 * (e / 2) := by omega
      rw [ih, hsq, ← e2]

/-- FINV's value is Fermat's power (R150). -/
theorem inv_toNat (a : Key) : (inv a).toNat = a.toNat ^ (p - 2) % p := by
  have h := powMod_eq p 255 a.toNat (p - 2) (by decide)
  have hlt : a.toNat ^ (p - 2) % p < p := Nat.mod_lt _ (by decide)
  have : a.toNat ^ (p - 2) % p < 2 ^ 256 := lt_trans hlt p_lt
  rw [inv, h, BitVec.toNat_ofNat, Nat.mod_eq_of_lt this]

end Sys2Proof.Machine
end

