-- ==== Sys2Proof/Laws/PerInstr.lean ====
section
/-! SUPPORT. Laws/PerInstr.lean: per constructor, the opcode its word carries has a row, and that row builds the command
back from the word's own fields (30_encoding.md R105). -/

namespace Sys2Proof.Laws.OpcodeRow

/-- The row of the encoded word's opcode exists and builds the command from the word's fields. -/
def Statement (i : Instr) : Prop :=
  ∃ r, findRow (opcField (encode i)) = some r ∧
    r.build (rdField (encode i)) (raField (encode i)) (rbField (encode i)) (rcField (encode i))
      (immField (encode i)) = i

/-- A row found for the opcode packed into a word. -/
theorem of_packWord {i : Instr} {opc : BitVec 8} {rd ra rb rc : KReg} {imm : BitVec 8} {r : OpRow}
    (he : encode i = packWord opc rd ra rb rc imm) (hr : findRow opc = some r) (hb : r.build rd ra rb rc imm = i) :
    Statement i := by
  refine ⟨r, ?_, ?_⟩
  · rw [he, opcField_packWord, hr]
  · rw [he, rdField_packWord, raField_packWord, rbField_packWord, rcField_packWord, immField_packWord, hb]

theorem nop : Statement .nop := of_packWord rfl rfl rfl
theorem fadd (d a b : KReg) : Statement (.fadd d a b) := of_packWord rfl rfl rfl
theorem fsub (d a b : KReg) : Statement (.fsub d a b) := of_packWord rfl rfl rfl
theorem fmul (d a b : KReg) : Statement (.fmul d a b) := of_packWord rfl rfl rfl
theorem fsqr (d a : KReg) : Statement (.fsqr d a) := of_packWord rfl rfl rfl
theorem fmuls (d a : KReg) : Statement (.fmuls d a) := of_packWord rfl rfl rfl
theorem finv (d a : KReg) : Statement (.finv d a) := of_packWord rfl rfl rfl
theorem pdbl (d a : KReg) : Statement (.pdbl d a) := of_packWord rfl rfl rfl
theorem pdadd (d a b c : KReg) : Statement (.pdadd d a b c) := of_packWord rfl rfl rfl
theorem cswap (a b c : KReg) (i : BitVec 8) : Statement (.cswap a b c i) := of_packWord rfl rfl rfl
theorem lstep (d a b c : KReg) (i : BitVec 8) : Statement (.lstep d a b c i) := of_packWord rfl rfl rfl
theorem smul (d a b : KReg) : Statement (.smul d a b) := of_packWord rfl rfl rfl
theorem iszero (a : KReg) : Statement (.iszero a) := of_packWord rfl rfl rfl
theorem cmp (a b : KReg) : Statement (.cmp a b) := of_packWord rfl rfl rfl
theorem kvalid (a : KReg) : Statement (.kvalid a) := of_packWord rfl rfl rfl
theorem mov (d a : KReg) : Statement (.mov d a) := of_packWord rfl rfl rfl
theorem ldi (d : KReg) (i : BitVec 8) : Statement (.ldi d i) := of_packWord rfl rfl rfl
theorem ldc (d : KReg) (i : BitVec 8) : Statement (.ldc d i) := of_packWord rfl rfl rfl
theorem getbit (a : KReg) (i : BitVec 8) : Statement (.getbit a i) := of_packWord rfl rfl rfl
theorem setbit (d : KReg) (i : BitVec 8) : Statement (.setbit d i) := of_packWord rfl rfl rfl
theorem getbyte (a : KReg) (i : BitVec 8) : Statement (.getbyte a i) := of_packWord rfl rfl rfl
theorem setbyte (d : KReg) (i : BitVec 8) : Statement (.setbyte d i) := of_packWord rfl rfl rfl
theorem getword (a : KReg) (i : BitVec 8) : Statement (.getword a i) := of_packWord rfl rfl rfl
theorem setword (d : KReg) (i : BitVec 8) : Statement (.setword d i) := of_packWord rfl rfl rfl

end Sys2Proof.Laws.OpcodeRow
end

