-- ==== Sys2Proof/Laws/Prime.lean ====
section
/-! SUPPORT. Laws/Prime.lean: the modulus p = 2^255 − 19 (R10) is prime, by a chain of Lucas certificates. -/

namespace Sys2Proof.Machine

/-- A number is prime when the prime factors of n − 1 are listed and some `a` has order n − 1 mod n. -/
theorem prime_of_certificate (n a : Nat) (fs : List Nat) (hn : 1 < n) (hbits : n - 1 < 2 ^ 255)
    (hprod : fs.prod = n - 1) (hfs : ∀ q ∈ fs, q.Prime) (hone : powMod n 255 a (n - 1) = 1)
    (hne : ∀ q ∈ fs, powMod n 255 a ((n - 1) / q) ≠ 1) : n.Prime := by
  have hone_mod : (1 : Nat) % n = 1 := Nat.mod_eq_of_lt hn
  have cast_pow : ∀ e, e ≤ n - 1 → ((a : ZMod n) ^ e = 1 ↔ powMod n 255 a e = 1) := by
    intro e he
    rw [powMod_eq n 255 a e (by omega)]
    have h : ((a : ZMod n) ^ e = 1) ↔ (((a ^ e : Nat) : ZMod n) = ((1 : Nat) : ZMod n)) := by simp
    rw [h, ZMod.natCast_eq_natCast_iff', hone_mod]
  apply lucas_primality n (a : ZMod n)
  · exact (cast_pow (n - 1) le_rfl).2 hone
  · intro q hq hdvd heq
    rw [← hprod] at hdvd
    obtain ⟨r, hr, hqr⟩ := (Prime.dvd_prod_iff hq.prime).1 hdvd
    have : q = r := (Nat.prime_dvd_prime_iff_eq hq (hfs r hr)).1 hqr
    subst this
    exact hne q hr ((cast_pow _ (Nat.div_le_self _ _)).1 heq)

theorem prime_2773320623 : Nat.Prime 2773320623 := by
  refine prime_of_certificate _ 5 [2, 2437, 569003] (by decide) (by decide) (by decide) ?_
    (by decide +kernel) (by decide +kernel)
  simp only [List.forall_mem_cons, List.not_mem_nil, false_imp_iff, implies_true, and_true]; norm_num

theorem prime_72106336199 : Nat.Prime 72106336199 := by
  refine prime_of_certificate _ 7 [2, 13, 2773320623] (by decide) (by decide) (by decide) ?_
    (by decide +kernel) (by decide +kernel)
  simp only [List.forall_mem_cons, List.not_mem_nil, false_imp_iff, implies_true, and_true]
  exact ⟨by norm_num, by norm_num, prime_2773320623⟩

theorem prime_1919519569386763 : Nat.Prime 1919519569386763 := by
  refine prime_of_certificate _ 2 [2, 3, 7, 19, 47, 47, 127, 8574133] (by decide) (by decide) (by decide) ?_
    (by decide +kernel) (by decide +kernel)
  simp only [List.forall_mem_cons, List.not_mem_nil, false_imp_iff, implies_true, and_true]; norm_num

theorem prime_75445702479781427272750846543864801 : Nat.Prime 75445702479781427272750846543864801 := by
  refine prime_of_certificate _ 7 [2, 2, 2, 2, 2, 3, 3, 5, 5, 75707, 72106336199, 1919519569386763]
    (by decide) (by decide) (by decide) ?_ (by decide +kernel) (by decide +kernel)
  have h2 : Nat.Prime 2 := Nat.prime_two
  have h3 : Nat.Prime 3 := Nat.prime_three
  have h5 : Nat.Prime 5 := Nat.prime_five
  simp only [List.forall_mem_cons, List.not_mem_nil, false_imp_iff, implies_true, and_true]
  exact ⟨h2, h2, h2, h2, h2, h3, h3, h5, h5, by norm_num, prime_72106336199, prime_1919519569386763⟩

theorem prime_31757755568855353 : Nat.Prime 31757755568855353 := by
  refine prime_of_certificate _ 10 [2, 2, 2, 3, 31, 107, 223, 4153, 430751] (by decide) (by decide) (by decide) ?_
    (by decide +kernel) (by decide +kernel)
  simp only [List.forall_mem_cons, List.not_mem_nil, false_imp_iff, implies_true, and_true]; norm_num

theorem prime_74058212732561358302231226437062788676166966415465897661863160754340907 :
    Nat.Prime 74058212732561358302231226437062788676166966415465897661863160754340907 := by
  refine prime_of_certificate _ 2 [2, 3, 353, 57467, 132049, 1923133, 31757755568855353,
    75445702479781427272750846543864801] (by decide) (by decide) (by decide) ?_
    (by decide +kernel) (by decide +kernel)
  simp only [List.forall_mem_cons, List.not_mem_nil, false_imp_iff, implies_true, and_true]
  exact ⟨by norm_num, by norm_num, by norm_num, by norm_num, by norm_num, by norm_num, prime_31757755568855353,
    prime_75445702479781427272750846543864801⟩

/-- The modulus is prime. -/
theorem p_prime : Nat.Prime p := by
  refine prime_of_certificate _ 2 [2, 2, 3, 65147,
    74058212732561358302231226437062788676166966415465897661863160754340907] (by decide) (by decide) (by decide) ?_
    (by decide +kernel) (by decide +kernel)
  simp only [List.forall_mem_cons, List.not_mem_nil, false_imp_iff, implies_true, and_true]
  exact ⟨Nat.prime_two, Nat.prime_two, Nat.prime_three, by norm_num,
    prime_74058212732561358302231226437062788676166966415465897661863160754340907⟩

end Sys2Proof.Machine
end

