-- ==== Sys2Proof/Laws/Words.lean ====
section
/-! SUPPORT. Laws/Words.lean: a command word as a number (30_encoding.md R100). -/

namespace Sys2Proof.Machine

theorem toNat_append_add {n m : Nat} (a : BitVec n) (b : BitVec m) :
    (a ++ b).toNat = a.toNat * 2 ^ m + b.toNat := by
  rw [BitVec.toNat_append, ← Nat.shiftLeft_add_eq_or_of_lt b.isLt, Nat.shiftLeft_eq]

theorem packWord_toNat (opc : BitVec 8) (rd ra rb rc : KReg) (imm : BitVec 8) :
    (packWord opc rd ra rb rc imm).toNat =
      opc.toNat * 2 ^ 24 + rd.val * 2 ^ 20 + ra.val * 2 ^ 16 + rb.val * 2 ^ 12 + rc.val * 2 ^ 8 + imm.toNat := by
  simp only [packWord, toNat_append_add, BitVec.toNat_ofFin]
  omega

theorem opcField_toNat (w : Word) : (opcField w).toNat = w.toNat / 2 ^ 24 := by
  have := w.isLt
  simp only [opcField, BitVec.extractLsb'_toNat, Nat.shiftRight_eq_div_pow]
  omega

theorem rdField_val (w : Word) : (rdField w).val = w.toNat / 2 ^ 20 % 16 := by
  simp [rdField, Nat.shiftRight_eq_div_pow]

theorem raField_val (w : Word) : (raField w).val = w.toNat / 2 ^ 16 % 16 := by
  simp [raField, Nat.shiftRight_eq_div_pow]

theorem rbField_val (w : Word) : (rbField w).val = w.toNat / 2 ^ 12 % 16 := by
  simp [rbField, Nat.shiftRight_eq_div_pow]

theorem rcField_val (w : Word) : (rcField w).val = w.toNat / 2 ^ 8 % 16 := by
  simp [rcField, Nat.shiftRight_eq_div_pow]

theorem immField_toNat (w : Word) : (immField w).toNat = w.toNat % 2 ^ 8 := by
  simp [immField, BitVec.extractLsb'_toNat]

/-- The numeric word is the packed word. -/
theorem cmdWord_eq {opc : Nat} (h : opc < 256) (rd ra rb rc : KReg) (imm : BitVec 8) :
    cmdWord opc rd ra rb rc imm = packWord (BitVec.ofNat 8 opc) rd ra rb rc imm := by
  apply BitVec.eq_of_toNat_eq
  have h1 := (packWord (BitVec.ofNat 8 opc) rd ra rb rc imm).isLt
  rw [packWord_toNat, BitVec.toNat_ofNat, Nat.mod_eq_of_lt (show opc < 2 ^ 8 by omega)] at *
  rw [cmdWord, BitVec.toNat_ofNat, Nat.mod_eq_of_lt h1]

end Sys2Proof.Machine
end

