-- ==== Sys2Proof/Tests/Slice0.lean ====
section
/-! SUPPORT. Tests/Slice0.lean: the model's own tests. Expected values are the spec's: 30_encoding.md R105, R108 and
95_test_vectors.md section 2. A witness_ theorem meets the hypotheses of the obligation it names. -/

namespace Sys2Proof.Machine.Tests

/-! ### Helpers -/

/-- The state a command's completion gives, if it gives one. -/
def nextOf : Result → Option State
  | .next t => some t
  | .fault _ => none
  | .refused _ => none

/-- The reset state with the listed key registers and DATA. -/
def st (ks : List (KReg × Key)) (data : Word := 0) : State :=
  ks.foldl (fun s e => s.writeK e.1 e.2) { State.reset with data := data }

/-- What the word of a command leaves in a key register. -/
def keyAfter (s : State) (w : Word) (r : KReg) : Option Nat :=
  match decode w with
  | .command i => (nextOf (exec i s)).map (fun t => (t.readK r).toNat)
  | .illop => none
  | .illopnd => none

/-- What the word of a command leaves in FLAG, CMPR and DATA. -/
def portsAfter (s : State) (w : Word) : Option (Bool × BitVec 2 × Word) :=
  match decode w with
  | .command i => (nextOf (exec i s)).map (fun t => (t.flag, t.cmpr, t.data))
  | .illop => none
  | .illopnd => none

/-- STATUS, CTRL, DATA and irq after one event on a state. -/
def busAfter (s : State) (e : Event) : Option (Word × Word × Word × Bool) :=
  (nextOf (step { s with agenda := [e] })).map (fun t => (t.statusWord, t.ctrlWord, t.data, t.irq))

/-- 2^256 − 1. -/
def allOnes : Key := BitVec.allOnes 256
/-- p as a key value. -/
def pKey : Key := BitVec.ofNat 256 p

/-! ### WellFormed refuses ill-formed terms -/

theorem test_illFormed_pdbl_odd_rd : Instr.wellFormed (.pdbl 1 0) = false := by decide
theorem test_illFormed_pdbl_odd_ra : Instr.wellFormed (.pdbl 0 15) = false := by decide
theorem test_illFormed_pdadd_odd_rd : Instr.wellFormed (.pdadd 1 0 2 3) = false := by decide
theorem test_illFormed_pdadd_odd_ra : Instr.wellFormed (.pdadd 0 1 2 3) = false := by decide
theorem test_illFormed_pdadd_odd_rb : Instr.wellFormed (.pdadd 0 2 3 3) = false := by decide
theorem test_illFormed_lstep_odd_rd : Instr.wellFormed (.lstep 1 0 2 3 0) = false := by decide
theorem test_illFormed_lstep_odd_ra : Instr.wellFormed (.lstep 0 1 2 3 0) = false := by decide
theorem test_illFormed_lstep_same_pair : Instr.wellFormed (.lstep 2 2 8 9 0) = false := by decide
theorem test_illFormed_ldc_15 : Instr.wellFormed (.ldc 0 15) = false := by decide
theorem test_illFormed_getbyte_32 : Instr.wellFormed (.getbyte 0 32) = false := by decide
theorem test_illFormed_setbyte_32 : Instr.wellFormed (.setbyte 0 32) = false := by decide
theorem test_illFormed_getword_8 : Instr.wellFormed (.getword 0 8) = false := by decide
theorem test_illFormed_setword_8 : Instr.wellFormed (.setword 0 8) = false := by decide

/-! ### Each constructor's word, written out bit by bit: OPC RD RA RB RC IMM (R100, R105) -/

theorem test_decode_nop : decode 0b00000000000000000000000000000000 = .command (.nop) := by decide
theorem test_decode_fadd : decode 0b00000001001100010010000000000000 = .command (.fadd 3 1 2) := by decide
theorem test_decode_fsub : decode 0b00000010111110000001000000000000 = .command (.fsub 15 8 1) := by decide
theorem test_decode_fmul : decode 0b00000011001000010100000000000000 = .command (.fmul 2 1 4) := by decide
theorem test_decode_fsqr : decode 0b00000100001000010000000000000000 = .command (.fsqr 2 1) := by decide
theorem test_decode_fmuls : decode 0b00000101001000010000000000000000 = .command (.fmuls 2 1) := by decide
theorem test_decode_finv : decode 0b00000110000100100000000000000000 = .command (.finv 1 2) := by decide
theorem test_decode_pdbl : decode 0b00010000010011100000000000000000 = .command (.pdbl 4 14) := by decide
theorem test_decode_pdadd : decode 0b00010001010000000010100000000000 = .command (.pdadd 4 0 2 8) := by decide
theorem test_decode_cswap : decode 0b00010010000000000010100111111110 = .command (.cswap 0 2 9 254) := by decide
theorem test_decode_lstep : decode 0b00010011000000101000100100000011 = .command (.lstep 0 2 8 9 3) := by decide
theorem test_decode_smul : decode 0b00010100010110011000000000000000 = .command (.smul 5 9 8) := by decide
theorem test_decode_iszero : decode 0b00100000000001000000000000000000 = .command (.iszero 4) := by decide
theorem test_decode_cmp : decode 0b00100001000000010010000000000000 = .command (.cmp 1 2) := by decide
theorem test_decode_kvalid : decode 0b00100010000000010000000000000000 = .command (.kvalid 1) := by decide
theorem test_decode_mov : decode 0b00110000011100100000000000000000 = .command (.mov 7 2) := by decide
theorem test_decode_ldi : decode 0b00110001100000000000000011111111 = .command (.ldi 8 255) := by decide
theorem test_decode_ldc : decode 0b00110010011000000000000000001110 = .command (.ldc 6 14) := by decide
theorem test_decode_getbit : decode 0b01000000000010010000000011111111 = .command (.getbit 9 255) := by decide
theorem test_decode_setbit : decode 0b01000001001100000000000011111111 = .command (.setbit 3 255) := by decide
theorem test_decode_getbyte : decode 0b01000010000001110000000000011111 = .command (.getbyte 7 31) := by decide
theorem test_decode_setbyte : decode 0b01000011001100000000000000000001 = .command (.setbyte 3 1) := by decide
theorem test_decode_getword : decode 0b01000100000001010000000000000111 = .command (.getword 5 7) := by decide
theorem test_decode_setword : decode 0b01000101001000000000000000000111 = .command (.setword 2 7) := by decide

/-- Refused words (R108; 95_test_vectors.md 2.5). -/
theorem test_decode_refused :
    [0x01123001, 0x00000001, 0x10100000, 0x10210000, 0x11234000, 0x13228900, 0x13138900, 0x3200000F, 0x42000020,
      0x45000008].map decode = List.replicate 10 .illopnd ∧ [0x07000000, 0xFF000000].map decode = [.illop, .illop] := by
  decide

/-- The host's view: LSTEP's row with RA = 2 (the row's word with every operand 0 is ILLOPND, R108). -/
theorem test_decodeTableWord :
    decodeTableWord 32 0x13020000 = some (.lstep 0 2 0 0 0) ∧ decodeTableWord 32 0x13000000 = none := by decide

/-! ### Field commands (95_test_vectors.md 2.1) -/

theorem test_fadd_wraps :
    keyAfter (st [(1, allOnes), (2, allOnes)]) 0x01312000 3 = some 0x4a := by decide
theorem test_fadd_p_minus_1 :
    keyAfter (st [(1, pKey - 1), (2, 1)]) 0x01312000 3 = some 0 := by decide
theorem test_fsub_below_zero :
    keyAfter (st [(2, allOnes)]) 0x02312000 3 = some 0x7fffffffffffffffffffffffffffffffffffffffffffffffffffffffffffffc8 := by decide
theorem test_fsub_operand_order :
    keyAfter (st [(1, 7), (2, 3)]) 0x02312000 3 = some 4 := by decide
theorem test_fmul_in_place :
    keyAfter (st [(1, 0x100000000000000000000000000000000)]) 0x03111000 1 = some 0x26 := by decide
theorem test_fmul_allOnes :
    keyAfter (st [(1, allOnes), (2, allOnes)]) 0x03312000 3 = some 0x559 := by decide
theorem test_fsqr_p_minus_1 :
    keyAfter (st [(1, pKey - 1)]) 0x04210000 2 = some 1 := by decide
theorem test_fmuls_p_minus_1 :
    keyAfter (st [(1, pKey - 1)]) 0x05210000 2 = some 0x7ffffffffffffffffffffffffffffffffffffffffffffffffffffffffffe24ac := by decide
theorem test_finv_two :
    keyAfter (st [(1, 2)]) 0x06210000 2 = some 0x3ffffffffffffffffffffffffffffffffffffffffffffffffffffffffffffff7 := by decide +kernel
theorem test_finv_p :
    keyAfter (st [(1, pKey)]) 0x06210000 2 = some 0 := by decide +kernel

/-! ### Ladder commands (95_test_vectors.md 2.2) -/

theorem test_pdbl_base_X :
    keyAfter (st [(0, 9), (1, 1)]) 0x10200000 2 = some 0x1900 := by decide
theorem test_pdbl_base_Z :
    keyAfter (st [(0, 9), (1, 1)]) 0x10200000 3 = some 0x9660720 := by decide
theorem test_pdadd_X :
    keyAfter (st [(0, 0x1900), (1, 0x9660720), (2, 9), (3, 1), (6, 9)]) 0x11402600 4 = some 0x16112956bb61000 := by decide
theorem test_pdadd_Z :
    keyAfter (st [(0, 0x1900), (1, 0x9660720), (2, 9), (3, 1), (6, 9)]) 0x11402600 5 = some 0x3ee27bed76d439000 := by decide
theorem test_cswap_selector_read_first :
    keyAfter (st [(0, 1), (2, 2)]) 0x12002000 0 = some 2 := by decide
theorem test_cswap_bit_clear :
    keyAfter (st [(0, 1), (2, 2), (9, 0x4000000000000000000000000000000000000000000000000000000000000000)]) 0x120029FD 0 = some 1 := by decide
theorem test_lstep_bit0_look :
    keyAfter (st [(0, 9), (1, 1), (2, 0x1900), (3, 0x9660720), (8, 9), (9, 2)]) 0x13028900 3 = some 0x3ee27bed76d439000 := by decide
theorem test_lstep_bit1_look :
    keyAfter (st [(0, 9), (1, 1), (2, 0x1900), (3, 0x9660720), (8, 9), (9, 2)]) 0x13028901 2 = some 0x1e7aa9269a4d9f6a96bd1e100000 := by decide
theorem test_smul_3_9 :
    keyAfter (st [(8, 3), (9, 9)]) 0x14589000 5 = some 0x1c12bc1a6d57abe645534d91c21bba64f8824e67621c0859c00a03affb713c12 := by decide +kernel
theorem test_smul_p_runs_the_ladder :
    keyAfter (st [(8, pKey), (9, 9)]) 0x14589000 5 = some 0x0b6228967197bf5976b6b7dfb4726bc218e5bd54f28e5f984a9dfce6825f870b := by decide +kernel

/-- R200's instance a = 3, b = 5, g = 9 (95_test_vectors.md S11). -/
theorem test_scalarMul_commutes :
    scalarMul 3 (scalarMul 5 9) = 0x451d44beaaaf59cf740de459a82ac101302f8fca7e0433471e0ff10454a4fa5e ∧
      scalarMul 5 (scalarMul 3 9) = 0x451d44beaaaf59cf740de459a82ac101302f8fca7e0433471e0ff10454a4fa5e := by
  decide +kernel

/-- The iterated vector of RFC 7748 after one iteration, k = u = 9 (95_test_vectors.md section 4). -/
theorem test_x25519_iterated :
    hostX25519 9 9 = 0x7930ae1103e8603c784b85b67bb897789f27b72b3e0b35a1bcd727627a8e2c42 := by decide +kernel

/-! ### Comparison and validation (95_test_vectors.md 2.3) -/

theorem test_iszero_zero :
    portsAfter (st []) 0x20040000 = some (true, 0, 0) := by decide
theorem test_iszero_p_is_not_raw_zero :
    portsAfter (st [(4, pKey)]) 0x20040000 = some (false, 0, 0) := by decide
theorem test_cmp_less :
    portsAfter (st [(1, 9), (2, pKey)]) 0x21012000 = some (false, 1, 0) := by decide
theorem test_cmp_greater :
    portsAfter (st [(1, pKey)]) 0x21012000 = some (false, 2, 0) := by decide
theorem test_kvalid_2p_plus_1 :
    portsAfter (st [(1, 0xffffffffffffffffffffffffffffffffffffffffffffffffffffffffffffffdb)]) 0x22010000 = some (false, 0, 0) := by decide
theorem test_kvalid_p_plus_2 :
    portsAfter (st [(1, pKey + 2)]) 0x22010000 = some (true, 0, 0) := by decide

/-! ### The unsafe-point table as an argument (R5, R232) -/

/-- A table that is not the default: 10 .. 21. -/
def otherTable : UnsafeTable where
  values := [10, 11, 12, 13, 14, 15, 16, 17, 18, 19, 20, 21]
  length_eq := by decide
  ascending := by decide

/-- R234 over another table: FLAG of an entry of it, and of the default table's entry 0, which is none of its. -/
theorem test_kvalid_other_table :
    (nextOf (execOver otherTable (.kvalid 1) (st [(1, 21)]))).map (·.flag) = some false ∧
    (nextOf (execOver otherTable (.kvalid 1) (st [(1, 0)]))).map (·.flag) = some true := by decide

/-- R47 over another table: index 14 is its last entry and index 2 is still the base point 9. -/
theorem test_ldc_other_table :
    [(2 : BitVec 8), 3, 14].map (fun i => (nextOf (execOver otherTable (.ldc 6 i) State.reset)).map (fun t => (t.readK 6).toNat)) =
      [some 9, some 10, some 21] := by decide

/-! ### Register transfer and accessors (95_test_vectors.md 2.4) -/

theorem test_mov_raw :
    keyAfter (st [(2, pKey)]) 0x30720000 7 = some p := by decide
theorem test_ldi_255 :
    keyAfter (st []) 0x311000FF 1 = some 255 := by decide
theorem test_ldc_0 :
    keyAfter (st []) 0x32600000 6 = some p := by decide
theorem test_ldc_14 :
    keyAfter (st []) 0x3260000E 6 = some (2 ^ 256 - 37) := by decide
theorem test_getbit_248 :
    portsAfter (st [(7, 0x0123456789abcdeffedcba9876543210deadbeefcafef00d0011223344556677)]) 0x400700F8 = some (true, 0, 1) := by decide
theorem test_getbit_3 :
    portsAfter (st [(7, 0x0123456789abcdeffedcba9876543210deadbeefcafef00d0011223344556677)]) 0x40070003 = some (false, 0, 0) := by decide
theorem test_setbit_uses_data_0_only :
    keyAfter (st [] 3) 0x41100005 1 = some 0x20 := by decide
theorem test_setbit_clears :
    keyAfter (st [(1, 0x20)] 2) 0x41100005 1 = some 0 := by decide
theorem test_getbyte_31 :
    portsAfter (st [(7, 0x0123456789abcdeffedcba9876543210deadbeefcafef00d0011223344556677)]) 0x4207001F = some (false, 0, 1) := by decide
theorem test_getbyte_0 :
    portsAfter (st [(7, 0x0123456789abcdeffedcba9876543210deadbeefcafef00d0011223344556677)]) 0x42070000 = some (false, 0, 0x77) := by decide
theorem test_setbyte_1 :
    keyAfter (st [] 0x1234) 0x43200001 2 = some 0x3400 := by decide
theorem test_getword_3 :
    portsAfter (st [(7, 0x0123456789abcdeffedcba9876543210deadbeefcafef00d0011223344556677)]) 0x44070003 = some (false, 0, 0xDEADBEEF) := by decide
theorem test_getword_7 :
    portsAfter (st [(7, 0x0123456789abcdeffedcba9876543210deadbeefcafef00d0011223344556677)]) 0x44070007 = some (false, 0, 0x01234567) := by decide
theorem test_setword_7 :
    keyAfter (st [(3, allOnes)]) 0x45300007 3 = some 0x00000000ffffffffffffffffffffffffffffffffffffffffffffffffffffffff := by decide

/-- NOP (R260) from an idle state with DONE = 0: BUSY 0, DONE 1, nothing else. -/
theorem test_nop : nextOf (exec .nop State.reset) = some { State.reset with done := true } := by decide

/-! ### The bus, errors, the interrupt and reset (95_test_vectors.md 2.6) -/

/-- A block with FINV k1, k2 pending. -/
def pendingFinv : State := State.reset.accept (.finv 1 2)

theorem test_read_id : State.reset.busRead 0x00 .word = 0x43323535 := by decide
theorem test_read_unaligned : State.reset.busRead 0x02 .word = 0 ∧ State.reset.busRead 0x00 .half = 0 := by decide
theorem test_write_unmapped : busAfter State.reset (.bus (.write 0x14 .word 1)) = some (0x104, 0, 0, false) := by decide
theorem test_write_id_ignored : busAfter State.reset (.bus (.write 0x00 .word 5)) = some (0, 0, 0, false) := by decide
theorem test_issue_finv : busAfter State.reset (.bus (.write 0x0C .word 0x06120000)) = some (1, 0, 0, false) := by decide
theorem test_badacc_before_busy : busAfter pendingFinv (.bus (.write 0x0E .word 0)) = some (0x105, 0, 0, false) := by
  decide
theorem test_busy_before_illop : busAfter pendingFinv (.bus (.write 0x0C .word 0x07000000)) = some (0x205, 0, 0, false) := by
  decide
theorem test_data_write_busy : busAfter pendingFinv (.bus (.write 0x10 .word 0x1234)) = some (0x205, 0, 0, false) := by
  decide
theorem test_illop_code : busAfter State.reset (.bus (.write 0x0C .word 0x07000000)) = some (0x304, 0, 0, false) := by
  decide
theorem test_illopnd_code : busAfter State.reset (.bus (.write 0x0C .word 0x10100000)) = some (0x404, 0, 0, false) := by
  decide
theorem test_completion_raises_irq :
    busAfter { State.reset.accept .nop with ie := true } .completion = some (2, 1, 0, true) := by decide
theorem test_status_write_clears :
    busAfter { State.reset with done := true, err := true, errcode := 4, flag := true, ie := true }
      (.bus (.write 0x08 .word 6)) = some (8, 1, 0, false) := by decide
theorem test_soft_reset :
    busAfter { pendingFinv with ie := true, data := 7 } (.bus (.write 0x04 .word 0xFFFFFFFF)) =
      some (0, 0, 0, false) := by decide
theorem test_hard_reset_discards_pending : busAfter pendingFinv (.reset none) = some (0, 0, 0, false) := by decide

/-- A STATUS poll of a busy block lets the command complete and polls again (R110). -/
theorem test_waitIdle_busy :
    (nextOf (step { pendingFinv with agenda := [.waitIdle 0] })).map (fun t => (t.agenda, t.reads)) =
      some ([.completion, .waitIdle 0], [(0x08, 1)]) := by decide

/-- The host's placement runs a command as the very next step, from reset. -/
theorem test_withFetchWord_first_step :
    step (State.reset.withFetchWord 32 0x31800009) = exec (.ldi 8 9) (State.reset.accept (.ldi 8 9)) := rfl

/-! ### Witnesses for the obligations' hypotheses -/

theorem reset_inv : State.reset.Inv := by constructor <;> decide

theorem pendingFinv_inv : pendingFinv.Inv := by constructor <;> decide

theorem witness_StepKeepsBlockInvariant :
    pendingFinv.Inv ∧ (∃ t, step pendingFinv = .next t) ∧ ∃ t, stepOver otherTable pendingFinv = .next t :=
  ⟨pendingFinv_inv, ⟨_, rfl⟩, _, rfl⟩

theorem witness_StepRunsDecodedCommand :
    (pendingFinv.pend = some (.finv 1 2) ∧ Instr.wellFormed (.finv 1 2) = true ∧ pendingFinv.agenda = []) ∧
    (∃ s : State, s.pend = some (.finv 1 2) ∧ s.agenda = [.completion]) ∧
    (decode 0x06120000 = .command (.finv 1 2) ∧
      ∃ s : State, s.busy = false ∧ s.agenda = [.bus (.write 0x0C .word 0x06120000)]) ∧
    (decode (BitVec.ofNat 32 (0x06120000 : Word).toNat) = .command (.finv 1 2) ∧
      ∃ s : State, s.agenda = [.waitIdle 1] ∧ s.busy = true) :=
  ⟨⟨rfl, rfl, rfl⟩, ⟨{ pendingFinv with agenda := [.completion] }, rfl, rfl⟩,
    ⟨by decide, { State.reset with agenda := [.bus (.write 0x0C .word 0x06120000)] }, rfl, rfl⟩,
    ⟨by decide, { pendingFinv with agenda := [.waitIdle 1] }, rfl, rfl⟩⟩

theorem witness_EveryRunEnds : pendingFinv.Inv := pendingFinv_inv

theorem witness_DecodeOfEncodeIsIdentity :
    Instr.wellFormed (.lstep 14 12 15 15 255) = true ∧ Instr.wellFormed (.ldc 15 14) = true ∧
      Instr.wellFormed (.getbyte 15 31) = true ∧ Instr.wellFormed (.setword 15 7) = true := by decide

theorem witness_EncodeOfDecodeIsIdentity : decode 0x13028903 = .command (.lstep 0 2 8 9 3) := by decide

/-- Each range of R106 at both ends, and the legal opcodes beside them, with every other field 0. -/
theorem witness_IllegalOpcodesAreIllop :
    ([0x07, 0x0F, 0x15, 0x1F, 0x23, 0x2F, 0x33, 0x3F, 0x46, 0xFF].all fun n =>
      decode (BitVec.ofNat 32 (n * 2 ^ 24)) == .illop) = true ∧
    ([0x00, 0x06, 0x10, 0x14, 0x20, 0x22, 0x30, 0x32, 0x40, 0x45].all fun n =>
      decode (BitVec.ofNat 32 (n * 2 ^ 24)) != .illop) = true := by decide

/-- Each operand check of R107 failing alone: unused RD, RA, RB, RC, IMM; odd RD, RA, RB; IMM 15, 32, 8; RD = RA. -/
theorem witness_IllegalOperandsAreIllopnd :
    ([0x20100000, 0x31010000, 0x04001000, 0x01000100, 0x14000001, 0x10100000, 0x10010000, 0x11001000, 0x3200000F,
      0x43000020, 0x44000008, 0x13EE0000].all fun w => decode w == .illopnd) = true := by decide

/-- Reads at each mapped offset, at both ends of the unmapped range, and misaligned, of a block with DATA = 7, IE = 1 and a
command pending. -/
theorem witness_BusReadReturnsRegister_clauses :
    ([0x00, 0x04, 0x08, 0x0C, 0x10, 0x14, 0xFC, 0x01, 0xFF].map fun off =>
      ({ pendingFinv with data := 7, ie := true } : State).busRead off .word) =
      [0x43323535, 1, 1, 0, 7, 0, 0, 0, 0] := by decide

/-- Writes at both ends of the unmapped range, of a sub-word size, and to DATA and CTRL of an idle block. -/
theorem witness_BusWriteActsOnRegister_clauses :
    busAfter State.reset (.bus (.write 0xFC .word 1)) = some (0x104, 0, 0, false) ∧
    busAfter State.reset (.bus (.write 0x10 .byte 1)) = some (0x104, 0, 0, false) ∧
    busAfter State.reset (.bus (.write 0x10 .word 1)) = some (0, 0, 1, false) ∧
    busAfter State.reset (.bus (.write 0x04 .word 1)) = some (0, 1, 0, false) := by decide

theorem witness_InverseTimesOperandIsOne :
    (2 : KReg) ≠ 1 ∧ ((st [(1, 9)]).readK 1).toNat % p ≠ 0 := by decide

theorem witness_ReferenceDatapathsConform : (2 ^ 512 - 1 : Nat) < 2 ^ 512 ∧ (pKey - 1).toNat < p :=
  ⟨by norm_num, by decide⟩

theorem witness_PdblDoublesProjectively : (14 : KReg).val % 2 = 0 ∧ (0 : KReg).val % 2 = 0 := by decide

theorem witness_PdaddAddsDifferentially :
    (14 : KReg).val % 2 = 0 ∧ (0 : KReg).val % 2 = 0 ∧ (2 : KReg).val % 2 = 0 := by decide

theorem witness_CswapTwiceRestores : (9 : KReg) ≠ 0 ∧ (9 : KReg) ≠ 2 := by decide

theorem witness_LstepConsumesOneScalarBit :
    (14 : KReg).val % 2 = 0 ∧ (0 : KReg).val % 2 = 0 ∧ (14 : KReg) ≠ 0 := by decide

theorem witness_PdblEqualsFieldSequence :
    (2 : KReg).val % 2 = 0 ∧ (0 : KReg).val % 2 = 0 ∧ (6 : KReg) ≠ 7 ∧ (6 : KReg) ∉ ([2, 2 + 1, 0, 0 + 1] : List KReg) ∧
      (7 : KReg) ∉ ([2, 2 + 1, 0, 0 + 1] : List KReg) := by decide

/-- The highest set bit at both ends of its range, and the zero scalar. -/
theorem witness_SmulRunsTheLadder :
    (State.reset.readK 0 = 0) ∧ ((1 : Key).getLsbD 0 = true ∧ ∀ j, 0 < j → (1 : Key).getLsbD j = false) ∧
      (allOnes.getLsbD 255 = true ∧ ∀ j, 255 < j → allOnes.getLsbD j = false) := by
  refine ⟨by decide, ⟨by decide, fun j hj => ?_⟩, ⟨by decide, fun j hj => BitVec.getLsbD_of_ge _ _ (by omega)⟩⟩
  simp [BitVec.getLsbD_one, show j ≠ 0 by omega]

theorem witness_SmulOnDegenerateOperands :
    (st []).readK 8 = 0 ∧ (st [(8, 1)]).readK 8 = 1 ∧ (st [(8, 1)]).readK 9 = 0 := by decide

theorem witness_SmulDependsOnBaseModP : pKey.toNat % p = (0 : Key).toNat % p ∧ pKey ≠ 0 := by decide

/-- Each order of CMP's two values. -/
theorem witness_CmpComparesRawValues :
    ((5 : Key).toNat = (5 : Key).toNat) ∧ ((0 : Key).toNat < allOnes.toNat) ∧ (pKey.toNat < (pKey + 1).toNat) := by
  decide

/-- A command that does not consult the table, and a pending one. -/
theorem witness_OnlyKvalidAndLdcConsultTheTable :
    (∀ ra, (Instr.cmp 1 2) ≠ .kvalid ra) ∧ (∀ rd idx, (Instr.cmp 1 2) ≠ .ldc rd idx) ∧
      (∀ ra, pendingFinv.pend ≠ some (.kvalid ra)) ∧ ∀ rd idx, pendingFinv.pend ≠ some (.ldc rd idx) := by
  simp [pendingFinv, State.accept]

theorem witness_BinarySearchReachesVerdict :
    unsafeTable.length = 12 ∧ unsafeTable.Pairwise (fun a b => a.toNat < b.toNat) := by decide

/-- The immediates at the ends of their legal ranges and just above. -/
theorem witness_index_ranges :
    (14 : BitVec 8).toNat ≤ 14 ∧ 14 < (15 : BitVec 8).toNat ∧ (31 : BitVec 8).toNat ≤ 31 ∧ 31 < (32 : BitVec 8).toNat ∧
      (7 : BitVec 8).toNat ≤ 7 ∧ 7 < (8 : BitVec 8).toNat ∧ 7 < (255 : BitVec 8).toNat := by decide

/-- LDC, GETBYTE, SETBYTE, GETWORD and SETWORD complete at the greatest legal index (R263, R267, R268, R270, R271). -/
theorem witness_indexed_commands_complete :
    (nextOf (exec (.ldc 15 14) State.reset)).isSome = true ∧ (nextOf (exec (.getbyte 15 31) State.reset)).isSome = true ∧
      (nextOf (exec (.setbyte 15 31) State.reset)).isSome = true ∧
      (nextOf (exec (.getword 15 7) State.reset)).isSome = true ∧
      (nextOf (exec (.setword 15 7) State.reset)).isSome = true := by decide

theorem witness_AccessorUnitsNest : (31 : Nat) < 32 ∧ (255 : Nat) < 256 := by decide

theorem witness_LoadThenStoreKeyRoundTrip :
    ∃ (s : State) (loadWaits issueWaits readWaits : Nat → Wait), s.Inv ∧
      s.agenda = macroLd256 loadWaits 7 pKey ++ macroSt256 issueWaits readWaits 7 ∧ loadWaits 0 ≠ loadWaits 7 :=
  ⟨{ pendingFinv with
      agenda := macroLd256 (fun w => ⟨w == 0, w⟩) 7 pKey ++ macroSt256 (fun _ => ⟨true, 0⟩) (fun _ => ⟨false, 1⟩) 7 },
    fun w => ⟨w == 0, w⟩, fun _ => ⟨true, 0⟩, fun _ => ⟨false, 1⟩, by constructor <;> decide, rfl, by decide⟩

theorem witness_EveryCommandCompletesWithoutError : Instr.wellFormed (.pdadd 14 0 2 15) = true := by decide

theorem witness_CommandsReadAndWriteListedKeys :
    (∀ r ∈ Instr.keysRead (.fadd 3 1 2), (st [(5, 1)]).readK r = State.reset.readK r) ∧
      (st [(5, 1)]).data = State.reset.data ∧ (∃ t, exec (.fadd 3 1 2) (st [(5, 1)]) = .next t) ∧
      (∃ t, exec (.fadd 3 1 2) State.reset = .next t) := by
  refine ⟨by decide, by decide, ⟨_, rfl⟩, ⟨_, rfl⟩⟩

/-- A command that writes each of FLAG, CMPR and DATA, and one that writes none and reads no DATA. -/
theorem witness_ResultRegistersHaveListedWriters :
    (∃ t, exec (.cmp 1 2) State.reset = .next t) ∧ Instr.writesFlag (.cmp 1 2) = true ∧
      Instr.writesCmpr (.cmp 1 2) = true ∧ Instr.writesData (.getbit 1 2) = true ∧ Instr.readsData (.fadd 3 1 2) = false ∧
      Instr.writesFlag (.fadd 3 1 2) = false ∧ Instr.writesCmpr (.fadd 3 1 2) = false ∧
      Instr.writesData (.fadd 3 1 2) = false ∧
      ∃ t, exec (.fadd 3 1 2) { State.reset with data := 5, flag := true, cmpr := 1 } = .next t :=
  ⟨⟨_, rfl⟩, rfl, rfl, rfl, rfl, rfl, rfl, rfl, ⟨_, rfl⟩⟩

theorem witness_BusReadReturnsRegister :
    ∃ s : State, s.agenda = [.bus (.read 0x10 .word)] ∧ s.busy = true :=
  ⟨{ pendingFinv with agenda := [.bus (.read 0x10 .word)] }, rfl, rfl⟩

theorem witness_BusWriteActsOnRegister :
    ∃ s : State, s.agenda = [.bus (.write 0x0C .word 0x07000000)] ∧ s.busy = false :=
  ⟨{ State.reset with agenda := [.bus (.write 0x0C .word 0x07000000)] }, rfl, rfl⟩

theorem witness_BusyBlockHoldsOperands :
    ∃ s : State, s.busy = true ∧ s.agenda = [.bus (.write 0x04 .word 1)] ∧
      (Event.bus (.write 0x04 .word 1)) ≠ .completion ∧ (∀ lost, Event.bus (.write 0x04 .word 1) ≠ .reset lost) ∧
      (∀ v : Word, v.getLsbD 1 = true → Event.bus (.write 0x04 .word 1) ≠ .bus (.write 0x04 .word v)) := by
  refine ⟨{ pendingFinv with agenda := [.bus (.write 0x04 .word 1)] }, rfl, rfl, by simp, by simp, ?_⟩
  intro v hv h
  simp only [Event.bus.injEq, BusAccess.write.injEq, true_and] at h
  subst h
  exact absurd hv (by decide)

/-- A refused write that sets ERR, one that changes ERRCODE while ERR stays 1, a STATUS write that clears both, and the two
resets. -/
theorem witness_ErrorRecordChangesOnlyByHost :
    ([(false, 0, Event.bus (.write 0x14 .word 4)), (true, 1, .bus (.write 0x0C .word 0x07000000)),
      (true, 4, .bus (.write 0x08 .word 4)), (true, 4, .bus (.write 0x04 .word 2)), (true, 4, .reset none)].map fun c =>
      (nextOf (step { State.reset with err := c.1, errcode := c.2.1, agenda := [c.2.2] })).map fun t => (t.err, t.errcode)) =
      [some (true, 1), some (true, 3), some (false, 0), some (false, 0), some (false, 0)] := by decide

/-- Each reason of a refused write alone, at the edge of its range; and writes beside them that are not refused. -/
theorem witness_RefusesWrite_clauses :
    State.reset.RefusesWrite 0x10 .half 0 ∧ State.reset.RefusesWrite 0x01 .word 0 ∧
      State.reset.RefusesWrite 0x14 .word 0 ∧ State.reset.RefusesWrite 0xFC .word 0 ∧
      pendingFinv.RefusesWrite 0x0C .word 0 ∧ pendingFinv.RefusesWrite 0x10 .word 0 ∧
      State.reset.RefusesWrite 0x0C .word 0x07000000 ∧ ¬ State.reset.RefusesWrite 0x10 .word 0 ∧
      ¬ pendingFinv.RefusesWrite 0x04 .word 0 ∧ ¬ State.reset.RefusesWrite 0x0C .word 0 := by
  have hnop : decode 0#32 = .command .nop := by decide
  have hillop : decode 117440512#32 = .illop := by decide
  have hbusy : pendingFinv.busy = true := rfl
  have hidle : State.reset.busy = false := rfl
  simp [State.RefusesWrite, hnop, hillop, hbusy, hidle]

theorem witness_ResetsRestoreResetValues :
    (∃ s : State, s.agenda = [.reset none] ∧ s.busy = true) ∧
      (∃ s : State, s.agenda = [.reset (some (.write 0x10 .word 1))]) ∧
      (∃ s : State, s.agenda = [.reset (some (.read 0x10 .word))]) ∧
      (∃ s : State, (2 : Word).getLsbD 1 = true ∧ s.agenda = [.bus (.write 0x04 .word 2)]) :=
  ⟨⟨{ pendingFinv with agenda := [.reset none] }, rfl, rfl⟩,
    ⟨{ pendingFinv with agenda := [.reset (some (.write 0x10 .word 1))] }, rfl⟩,
    ⟨{ pendingFinv with agenda := [.reset (some (.read 0x10 .word))] }, rfl⟩,
    ⟨{ pendingFinv with agenda := [.bus (.write 0x04 .word 2)] }, by decide, rfl⟩⟩

theorem witness_InterruptLineFollowsEvents :
    (∃ t, exec .nop { pendingFinv with ie := true } = .next t) ∧ (6 : Word).getLsbD 1 = true ∧
      (6 : Word).getLsbD 2 = true ∧ (1 : Word).getLsbD 1 = false :=
  ⟨⟨_, rfl⟩, by decide, by decide, by decide⟩

theorem witness_BusAccessesDoNotSeeKeys : ∃ s : State, s.agenda = [.bus (.read 0x08 .word)] :=
  ⟨{ State.reset with agenda := [.bus (.read 0x08 .word)] }, rfl⟩

theorem witness_WindowHasEveryOffsetOnce : windowOffset (Config.c255Base + 255) = some 255 := by
  simp [windowOffset]

end Sys2Proof.Machine.Tests
end

section
/-! The unsafe-point table (00_scope.md R5, 42_compare_validate.md R232, R237): which completions and steps consult it. -/

namespace Sys2Proof.Machine

/-! ### Completions -/

/-- Every command but KVALID and LDC completes as this hardware's `exec` does, whatever the table. -/
theorem execOver_eq_exec (table : UnsafeTable) {i : Instr} (hkvalid : ∀ ra, i ≠ .kvalid ra)
    (hldc : ∀ rd idx, i ≠ .ldc rd idx) : execOver table i = exec i := by
  funext s
  cases i
  case kvalid ra => exact absurd rfl (hkvalid ra)
  case ldc rd idx => exact absurd rfl (hldc rd idx)
  all_goals rfl

theorem execOver_table_irrelevant (table table' : UnsafeTable) {i : Instr} (hkvalid : ∀ ra, i ≠ .kvalid ra)
    (hldc : ∀ rd idx, i ≠ .ldc rd idx) : execOver table i = execOver table' i :=
  (execOver_eq_exec table hkvalid hldc).trans (execOver_eq_exec table' hkvalid hldc).symm

/-! ### Steps: an event runs no command but the pending one -/

section
variable {run run' : Instr → State → Result} {s : State}

theorem complete_congr (h : ∀ i, s.pend = some i → run i = run' i) : s.complete run = s.complete run' := by
  unfold State.complete
  cases hp : s.pend with
  | none => rfl
  | some i => simp only [h i hp]

theorem happen_congr (h : ∀ i, s.pend = some i → run i = run' i) (e : Event) : s.happen run e = s.happen run' e := by
  cases e with
  | completion => exact complete_congr h
  | bus | waitIdle | reset => rfl

theorem advance_congr (h : ∀ i, s.pend = some i → run i = run' i) : s.advance run = s.advance run' := by
  cases ha : s.agenda with
  | nil => rw [advance_nil ha, advance_nil ha, complete_congr h]
  | cons e rest =>
    rw [advance_cons ha, advance_cons ha]
    exact happen_congr (s := { s with agenda := rest }) h e

end

theorem stepOver_table_irrelevant (table table' : UnsafeTable) {s : State} (hkvalid : ∀ ra, s.pend ≠ some (.kvalid ra))
    (hldc : ∀ rd idx, s.pend ≠ some (.ldc rd idx)) : stepOver table s = stepOver table' s := by
  refine advance_congr fun i hi => execOver_table_irrelevant table table' ?_ ?_
  · rintro ra rfl
    exact hkvalid ra hi
  · rintro rd idx rfl
    exact hldc rd idx hi

/-- Settles O34: the completions agree command by command, and an event runs no command but the pending one. -/
theorem onlyKvalidAndLdcConsultTheTable : Obligations.OnlyKvalidAndLdcConsultTheTable :=
  ⟨fun i s => by rw [execOver_default], fun s => by rw [stepOver_default],
    fun table table' _ s hkvalid hldc => congrFun (execOver_table_irrelevant table table' hkvalid hldc) s,
    fun table table' _ hkvalid hldc => stepOver_table_irrelevant table table' hkvalid hldc⟩

end Sys2Proof.Machine
end

section
/-! What a completion reads and writes (10_state.md R32, R35 to R37): the key registers, FLAG, CMPR and DATA, for every
table. -/

namespace Sys2Proof.Machine

/-- LDC's index has an entry in the ROM when LDC completes, and the entry goes to RD (R263). -/
theorem execLdcOver_next {table : UnsafeTable} {rd : KReg} {idx : BitVec 8} {s t : State}
    (h : execLdcOver table rd idx s = .next t) :
    ∃ v, (constRomOver table)[idx.toNat]? = some v ∧ t = (s.writeK rd v).completed := by
  unfold execLdcOver at h
  split at h
  · next v hv =>
    cases h
    exact ⟨v, hv, rfl⟩
  · cases h

/-- R36: 11 is no verdict. -/
theorem compareCode_ne_three (x y : Key) : compareCode x y ≠ 0b11 := by
  unfold compareCode
  split
  · decide
  · split <;> decide

/-! ### Keys kept by a write, and keys that agree after a write -/

theorem KeysKept.refl (s : State) (ks : List KReg) : KeysKept s s ks := fun _ _ => rfl

theorem KeysKept.writeK {s t : State} {ks : List KReg} (h : KeysKept s t ks) {r : KReg} {v : Key} (hr : r ∈ ks) :
    KeysKept s (t.writeK r v) ks := by
  intro q hq
  rw [readK_writeK_ne t v (ne_of_mem_of_not_mem hr hq).symm, h q hq]

theorem KeysKept.completed {s t : State} {ks : List KReg} (h : KeysKept s t ks) : KeysKept s t.completed ks := h

theorem KeysKept.writePoint {s t : State} {ks : List KReg} (h : KeysKept s t ks) {r : KReg} {pt : Point} (hr : r ∈ ks)
    (hz : pairZ r ∈ ks) : KeysKept s (t.writePoint r pt) ks :=
  (h.writeK hr).writeK hz

theorem readK_writeK_agree {s s' : State} {r q : KReg} {v v' : Key} (hv : v = v')
    (h : q ≠ r → s.readK q = s'.readK q) : (s.writeK r v).readK q = (s'.writeK r v').readK q := by
  rw [readK_writeK, readK_writeK, hv]
  split
  · rfl
  · next hne => exact h hne

theorem readK_writePoint_agree {s s' : State} {r q : KReg} {pt pt' : Point} (hpt : pt = pt')
    (h : q ≠ pairZ r → q ≠ r → s.readK q = s'.readK q) :
    (s.writePoint r pt).readK q = (s'.writePoint r pt').readK q :=
  readK_writeK_agree (hpt ▸ rfl) fun hz => readK_writeK_agree (hpt ▸ rfl) (h hz)

section
variable {table : UnsafeTable} {i : Instr} {s t : State} (h : execOver table i s = .next t)
include h

/-! ### What a completion writes -/

theorem execOver_keysKept : KeysKept s t i.keysWritten := by
  cases i
  case ldc =>
    obtain ⟨v, -, rfl⟩ := execLdcOver_next h
    exact .completed (.writeK (.refl _ _) (by simp [Instr.keysWritten]))
  case nop | iszero | cmp | kvalid | getbit | getbyte | getword =>
    cases h
    exact .completed (.refl _ _)
  case pdbl | pdadd =>
    cases h
    exact .completed (.writePoint (.refl _ _) (by simp [Instr.keysWritten]) (by simp [Instr.keysWritten, pairZ]))
  case lstep =>
    cases h
    exact .completed (.writePoint
      (.writePoint (.refl _ _) (by simp [Instr.keysWritten]) (by simp [Instr.keysWritten, pairZ]))
      (by simp [Instr.keysWritten]) (by simp [Instr.keysWritten, pairZ]))
  case cswap =>
    cases h
    exact .completed (.writeK (.writeK (.refl _ _) (by simp [Instr.keysWritten])) (by simp [Instr.keysWritten]))
  all_goals
    cases h
    exact .completed (.writeK (.refl _ _) (by simp [Instr.keysWritten]))

theorem execOver_flag_kept (hw : i.writesFlag = false) : t.flag = s.flag := by
  cases i
  case iszero | cmp | kvalid | getbit => cases hw
  case ldc =>
    obtain ⟨v, -, rfl⟩ := execLdcOver_next h
    rfl
  all_goals (cases h; rfl)

theorem execOver_cmpr_kept (hw : i.writesCmpr = false) : t.cmpr = s.cmpr := by
  cases i
  case cmp => cases hw
  case ldc =>
    obtain ⟨v, -, rfl⟩ := execLdcOver_next h
    rfl
  all_goals (cases h; rfl)

theorem execOver_data_kept (hw : i.writesData = false) : t.data = s.data := by
  cases i
  case getbit | getbyte | getword => cases hw
  case ldc =>
    obtain ⟨v, -, rfl⟩ := execLdcOver_next h
    rfl
  all_goals (cases h; rfl)

theorem execOver_cmpr_legal (hw : i.writesCmpr = true) : t.cmpr ≠ 0b11 := by
  cases i
  case cmp =>
    cases h
    exact compareCode_ne_three _ _
  all_goals cases hw

/-! ### What a completion's results depend on -/

variable {s' t' : State} (h' : execOver table i s' = .next t')
  (hkeys : ∀ r ∈ i.keysRead, s.readK r = s'.readK r)
include h' hkeys

/-- Keys are written from the keys the command reads and, for SETBIT, SETBYTE and SETWORD, from DATA. -/
theorem execOver_keys_agree (hdata : i.readsData = true → s.data = s'.data) :
    ∀ r ∈ i.keysWritten, t.readK r = t'.readK r := by
  cases i
  case ldc rd idx =>
    obtain ⟨v, hv, rfl⟩ := execLdcOver_next h
    obtain ⟨v', hv', rfl⟩ := execLdcOver_next h'
    obtain rfl : v = v' := Option.some.inj (hv.symm.trans hv')
    simp [Instr.keysWritten]
  case nop | iszero | cmp | kvalid | getbit | getbyte | getword => simp [Instr.keysWritten]
  case pdbl | pdadd =>
    cases h
    cases h'
    intro r hr
    rw [completed_readK, completed_readK]
    refine readK_writePoint_agree ?_ fun _ _ => ?_
    · simp_all [Instr.keysRead, State.readPoint, pairZ]
    · simp_all [Instr.keysWritten, pairZ]
  case lstep =>
    cases h
    cases h'
    intro r hr
    rw [completed_readK, completed_readK]
    refine readK_writePoint_agree ?_ fun _ _ => readK_writePoint_agree ?_ fun _ _ => ?_
    · simp_all [Instr.keysRead, State.readPoint, pairZ]
    · simp_all [Instr.keysRead, State.readPoint, pairZ]
    · simp_all [Instr.keysWritten, pairZ]
  case cswap =>
    cases h
    cases h'
    intro r hr
    rw [completed_readK, completed_readK]
    refine readK_writeK_agree ?_ fun _ => readK_writeK_agree ?_ fun _ => ?_
    · simp_all [Instr.keysRead]
    · simp_all [Instr.keysRead]
    · simp_all [Instr.keysWritten]
  all_goals
    cases h
    cases h'
    intro r hr
    rw [completed_readK, completed_readK]
    refine readK_writeK_agree ?_ fun _ => ?_
    · simp_all [Instr.keysRead, Instr.readsData, State.dataBit, State.dataByte]
    · simp_all [Instr.keysWritten]

theorem execOver_flag_agree (hw : i.writesFlag = true) : t.flag = t'.flag := by
  cases i
  case iszero | cmp | kvalid | getbit =>
    cases h
    cases h'
    simp_all [Instr.keysRead]
  all_goals cases hw

theorem execOver_cmpr_agree (hw : i.writesCmpr = true) : t.cmpr = t'.cmpr := by
  cases i
  case cmp =>
    cases h
    cases h'
    simp_all [Instr.keysRead]
  all_goals cases hw

theorem execOver_data_agree (hw : i.writesData = true) : t.data = t'.data := by
  cases i
  case getbit | getbyte | getword =>
    cases h
    cases h'
    simp_all [Instr.keysRead]
  all_goals cases hw

end

/-- Completions of one command from equal key registers, and from equal DATA where it reads DATA, end with equal key
registers. -/
theorem execOver_K_agree {table : UnsafeTable} {i : Instr} {s s' t t' : State} (h : execOver table i s = .next t)
    (h' : execOver table i s' = .next t') (hK : s'.K = s.K) (hdata : i.readsData = true → s.data = s'.data) :
    t'.K = t.K := by
  have hkeys (r : KReg) : s.readK r = s'.readK r := by simp only [State.readK, hK]
  refine K_ext fun r => ?_
  by_cases hr : r ∈ i.keysWritten
  · exact (execOver_keys_agree h h' (fun r _ => hkeys r) hdata r hr).symm
  · rw [execOver_keysKept h r hr, execOver_keysKept h' r hr, hkeys]

/-- Settles O50: `exec` is the completion over the default table. -/
theorem commandsReadAndWriteListedKeys : Obligations.CommandsReadAndWriteListedKeys := by
  unfold Obligations.CommandsReadAndWriteListedKeys
  rw [← execOver_default]
  exact ⟨fun _ _ _ h => execOver_keysKept h, fun _ _ _ _ _ hkeys hdata h h' =>
    ⟨execOver_keys_agree h h' hkeys fun _ => hdata, execOver_flag_agree h h' hkeys, execOver_cmpr_agree h h' hkeys,
      execOver_data_agree h h' hkeys⟩⟩

/-- Settles O51: what the writers write, and, with FLAG, CMPR and (for a command that reads no DATA) DATA replaced, what
agrees because every key register does. -/
theorem resultRegistersHaveListedWriters : Obligations.ResultRegistersHaveListedWriters := by
  unfold Obligations.ResultRegistersHaveListedWriters
  rw [← execOver_default]
  refine ⟨fun _ _ _ h => ⟨execOver_flag_kept h, execOver_cmpr_kept h, execOver_cmpr_legal h, execOver_data_kept h⟩,
    fun i s t t' d f c hdata h h' => ?_, fun _ _ _ _ _ _ h h' => execOver_K_agree h h' rfl fun _ => rfl⟩
  have hkeys : ∀ r ∈ i.keysRead, ({ s with data := d, flag := f, cmpr := c } : State).readK r = s.readK r :=
    fun _ _ => rfl
  exact ⟨execOver_K_agree h h' rfl (by simp [hdata]), execOver_flag_agree h' h hkeys, execOver_cmpr_agree h' h hkeys,
    execOver_data_agree h' h hkeys⟩

end Sys2Proof.Machine
end

section
/-! The decoder yields well-formed commands alone (30_encoding.md R107). -/

namespace Sys2Proof

/-- Row by row of R105, the operand checks are those the command needs (R107). -/
theorem build_wellFormed_of_operandsOk (w : Word) :
    ∀ r ∈ opTable, r.operandsOk w = true →
      (r.build (rdField w) (raField w) (rbField w) (rcField w) (immField w)).wellFormed = true := by
  simp only [opTable, opRowsField, opRowsLadder, opRowsCompare, opRowsAccess, List.forall_mem_append,
    List.forall_mem_cons]
  simp +contextual [OpRow.operandsOk, FieldUse.admits, Instr.wellFormed, KReg.isPair]

theorem wellFormed_of_decode {w : Word} {i : Instr} (h : decode w = .command i) : i.wellFormed = true := by
  unfold decode at h
  split at h
  · cases h
  · next r hr =>
    split at h
    · next hok =>
      cases h
      exact build_wellFormed_of_operandsOk w r (List.mem_of_find?_eq_some hr) hok
    · cases h

end Sys2Proof
end

section
/-! The invariant of the block (10_state.md R36, R49, R52, R310, R312): it holds at reset, every operation of the block keeps
it, and so does every event and step. It speaks of six fields; where an operation writes none of them, `{ h with }` carries
it over. -/

namespace Sys2Proof.Machine

/-- R310: no cause records NONE. -/
theorem ErrCause.code_ne_zero (c : ErrCause) : c.code ≠ 0 := by cases c <;> decide

/-- R310: no cause records a reserved code. -/
theorem ErrCause.code_le_four (c : ErrCause) : c.code.toNat ≤ 4 := by cases c <;> decide

namespace State.Inv

variable {s t : State}

theorem reset : State.reset.Inv := by constructor <;> decide

theorem blockReset (s : State) : s.blockReset.Inv := { reset with }

theorem cmdError (h : s.Inv) (c : ErrCause) : (s.cmdError c).Inv :=
  { h with
    err_errcode := iff_of_true rfl c.code_ne_zero
    errcode_legal := c.code_le_four }

theorem accept (h : s.Inv) {i : Instr} (hi : i.wellFormed = true) : (s.accept i).Inv :=
  { h with
    busy_pend := rfl
    pend_wellFormed := hi
    busy_done := fun _ => rfl }

theorem clearDone (h : s.Inv) : s.clearDone.Inv := { h with busy_done := fun _ => rfl }

theorem clearErr (h : s.Inv) : s.clearErr.Inv :=
  { h with
    err_errcode := by simp
    errcode_legal := by simp }

theorem issue (h : s.Inv) (v : Word) : (s.issue v).Inv := by
  obtain ⟨-, heq⟩ | ⟨-, -, heq⟩ | ⟨-, -, heq⟩ | ⟨-, i, hi, heq⟩ := issue_cases s v <;> rw [heq]
  · exact h.cmdError _
  · exact h.cmdError _
  · exact h.cmdError _
  · exact h.accept (wellFormed_of_decode hi)

theorem writeStatus (h : s.Inv) (v : Word) : (s.writeStatus v).Inv := by
  obtain heq | heq | heq | heq := writeStatus_cases s v <;> rw [heq]
  · exact h
  · exact h.clearDone
  · exact h.clearErr
  · exact h.clearDone.clearErr

theorem busWrite (h : s.Inv) (off : Offset) (size : AccessSize) (v : Word) : (s.busWrite off size v).Inv := by
  obtain heq | heq | heq | heq | heq | heq | ⟨-, heq⟩ | ⟨-, heq⟩ := busWrite_cases s off size v <;> rw [heq]
  · exact h
  · exact h.cmdError _
  · exact blockReset s
  · exact { h with }
  · exact h.writeStatus v
  · exact h.issue v
  · exact h.cmdError _
  · exact { h with }

theorem busAccess (h : s.Inv) (a : BusAccess) : (s.busAccess a).Inv := by
  cases a with
  | read off size => exact { h with }
  | write off size v => exact h.busWrite off size v

/-- A completion ends the command and leaves CMPR one of its three codes; the error record is not its to change. -/
theorem of_execOver {table : UnsafeTable} {i : Instr} (h : s.Inv) (hrun : execOver table i s = .next t) : t.Inv := by
  have hcmpr : t.cmpr ≠ 0b11 := by
    cases hw : i.writesCmpr
    · rw [execOver_cmpr_kept hrun hw]
      exact h.cmpr_legal
    · exact execOver_cmpr_legal hrun hw
  obtain ⟨K, data, flag, cmpr, rfl⟩ := execOver_next hrun
  exact ⟨rfl, rfl, nofun, hcmpr, h.err_errcode, h.errcode_legal⟩

theorem of_complete {table : UnsafeTable} (h : s.Inv) (hc : s.complete (execOver table) = .next t) : t.Inv := by
  obtain ⟨-, rfl⟩ | ⟨i, -, -, hrun⟩ := complete_cases hc
  · exact h
  · exact h.of_execOver hrun

theorem of_happen {table : UnsafeTable} {e : Event} (h : s.Inv) (he : s.happen (execOver table) e = .next t) :
    t.Inv := by
  cases e with
  | bus a =>
    cases he
    exact h.busAccess a
  | completion => exact h.of_complete he
  | waitIdle polls =>
    cases he
    obtain ⟨agenda, heq⟩ := pollStatus_cases s polls
    rw [heq]
    exact { h with }
  | reset lost =>
    cases he
    obtain ⟨reads, draws, heq⟩ := hardReset_cases s lost
    rw [heq]
    exact { blockReset s with }

theorem of_stepOver {table : UnsafeTable} (h : s.Inv) (hs : stepOver table s = .next t) : t.Inv := by
  obtain ⟨-, hc⟩ | ⟨e, rest, -, he⟩ := advance_cases hs
  · exact h.of_complete hc
  · exact of_happen (s := { s with agenda := rest }) { h with } he

end State.Inv

/-- Settles O3: each event keeps the invariant, and a step is one event. -/
theorem stepKeepsBlockInvariant : Obligations.StepKeepsBlockInvariant :=
  ⟨fun _ _ h hs => h.of_stepOver (stepOver_default ▸ hs), fun _ _ _ h hs => h.of_stepOver hs⟩

/-- Settles O2, field by field. -/
theorem resetMeetsBlockInvariant : Obligations.ResetMeetsBlockInvariant := .reset

end Sys2Proof.Machine
end

section
/-! How a command comes to run: its completion, the CMD write that makes it pending, and the host's placement of it
(10_state.md R50, 60_exceptions.md R312; log entries 1 and 4). -/

namespace Sys2Proof.Machine

variable {s : State} {i : Instr}

theorem complete_of_pend {run : Instr → State → Result} (hp : s.pend = some i) (hw : i.wellFormed = true) :
    s.complete run = run i s := by
  simp [State.complete, hp, hw]

theorem busWrite_cmd (s : State) (w : Word) : s.busWrite 0x0C .word w = s.issue w := rfl

theorem issue_of_idle {w : Word} (hb : s.busy = false) (hd : decode w = .command i) : s.issue w = s.accept i := by
  simp [State.issue, hb, hd]

theorem placedWord_toNat (w : Word) : placedWord 32 w.toNat = w := by
  apply BitVec.eq_of_toNat_eq
  simp [placedWord, Nat.mod_eq_of_lt w.isLt]

/-- The step after the placement of a decoded word is the completion of the accepted command, whatever was to come. -/
theorem step_placeCommand {w : Word} (hd : decode w = .command i) : step (s.placeCommand w) = exec i (s.accept i) := by
  have hw := wellFormed_of_decode hd
  cases ha : s.agenda with
  | nil =>
    have hplace : s.placeCommand w = s.accept i := by simp [State.placeCommand, hd, ha]
    rw [hplace, step_nil (s := s.accept i) ha, complete_of_pend rfl hw]
  | cons e rest =>
    have hplace : s.placeCommand w = { s.accept i with agenda := .completion :: s.agenda } := by
      simp [State.placeCommand, hd, ha]
    rw [hplace, step_cons rfl]
    exact complete_of_pend (s := s.accept i) rfl hw

/-- Settles O4, clause by clause: the two completions, the CMD write, the placement. -/
theorem stepRunsDecodedCommand : Obligations.StepRunsDecodedCommand := by
  refine ⟨fun s i hp hw ha => ?_, fun s i rest hp hw ha => ?_, fun s i w rest hd hb ha => ?_, fun s i w hd => ?_⟩
  · rw [step_nil ha, complete_of_pend hp hw]
  · rw [step_cons ha]
    exact complete_of_pend hp hw
  · rw [step_cons ha]
    exact congrArg Host.Outcome.next ((busWrite_cmd _ w).trans (issue_of_idle hb hd))
  · rw [State.withFetchWord, placedWord_toNat]
    exact step_placeCommand hd

end Sys2Proof.Machine
end

section
/-! The busy block (10_state.md R51): what the host's transactions leave as it is while a command is pending. -/

namespace Sys2Proof.Machine

/-- What a pending command's body can read, and the command itself, are the same, and the command is still pending. -/
structure BodyHeld (s t : State) : Prop where
  K : t.K = s.K
  data : t.data = s.data
  flag : t.flag = s.flag
  cmpr : t.cmpr = s.cmpr
  pend : t.pend = s.pend
  busy : t.busy = s.busy

theorem hostRegAt_eq_ctrl {off : Offset} (h : hostRegAt off = .ctrl) : off = 0x04 := by
  revert off; decide

theorem accessOk_size {off : Offset} {size : AccessSize} (h : accessOk off size = true) : size = .word := by
  simp only [accessOk, Bool.and_eq_true, beq_iff_eq] at h
  exact h.1

theorem BodyHeld.writeStatus (s : State) (v : Word) : BodyHeld s (s.writeStatus v) := by
  obtain heq | heq | heq | heq := writeStatus_cases s v <;> rw [heq] <;> constructor <;> rfl

/-- While BUSY = 1 every write but a CTRL write with bit 1 set leaves the body's operands as they are: CMD and DATA refuse
it, and CTRL and STATUS have no part in them. -/
theorem BodyHeld.busWrite {s : State} (hb : s.busy = true) {off : Offset} {size : AccessSize} {v : Word}
    (hsoft : accessOk off size = true → hostRegAt off = .ctrl → v.getLsbD 1 = false) :
    BodyHeld s (s.busWrite off size v) := by
  unfold State.busWrite
  split
  · next hok =>
    cases hreg : hostRegAt off with
    | id | unmapped => constructor <;> rfl
    | ctrl =>
      simp only [State.writeCtrl, hsoft hok hreg]
      constructor <;> rfl
    | status => exact .writeStatus s v
    | cmd =>
      simp only [State.issue, hb, if_true]
      constructor <;> rfl
    | data =>
      simp only [State.writeData, hb, if_true]
      constructor <;> rfl
  · constructor <;> rfl

theorem BodyHeld.pollStatus (s : State) (polls : Nat) : BodyHeld s (s.pollStatus polls) := by
  obtain ⟨agenda, heq⟩ := pollStatus_cases s polls
  rw [heq]
  constructor <;> rfl

/-- Settles O54, event by event. -/
theorem busyBlockHoldsOperands : Obligations.BusyBlockHoldsOperands := by
  intro s e rest hb ha hcompletion hreset hsoft
  suffices h : ∃ t, ({ s with agenda := rest } : State).happen exec e = .next t ∧ BodyHeld { s with agenda := rest } t by
    obtain ⟨t, ht, hK, hdata, hflag, hcmpr, hpend, hbusy⟩ := h
    exact ⟨t, (step_cons ha).trans ht, hK, hdata, hflag, hcmpr, hpend, hbusy.trans hb⟩
  cases e with
  | completion => exact absurd rfl hcompletion
  | reset lost => exact absurd rfl (hreset lost)
  | waitIdle polls => exact ⟨_, rfl, .pollStatus _ polls⟩
  | bus a =>
    refine ⟨_, rfl, ?_⟩
    cases a with
    | read off size => constructor <;> rfl
    | write off size v =>
      refine .busWrite (s := { s with agenda := rest }) hb fun hok hreg => ?_
      obtain rfl := accessOk_size hok
      obtain rfl := hostRegAt_eq_ctrl hreg
      simpa using fun hv => hsoft v hv rfl

end Sys2Proof.Machine
end

section
/-! The key registers behind the bus (10_state.md R30, R31): no transaction sees them. -/

namespace Sys2Proof.Machine

theorem writeStatus_withK (s : State) (K : Vector Key 16) (v : Word) :
    ({ s with K := K } : State).writeStatus v = { s.writeStatus v with K := K } := by
  unfold State.writeStatus
  cases v.getLsbD 1 <;> cases v.getLsbD 2 <;> rfl

/-- One transaction with two blocks that differ in K alone: they differ in K alone afterwards, and each keeps its own K
unless the transaction resets both. -/
theorem busAccess_withK (s : State) (K : Vector Key 16) (a : BusAccess) :
    { ({ s with K := K } : State).busAccess a with K := (s.busAccess a).K } = s.busAccess a ∧
      ((s.busAccess a).K = s.K ∧ (({ s with K := K } : State).busAccess a).K = K ∨
        (s.busAccess a).K = State.reset.K ∧ (({ s with K := K } : State).busAccess a).K = State.reset.K) := by
  cases a with
  | read off size => exact ⟨rfl, .inl ⟨rfl, rfl⟩⟩
  | write off size v =>
    simp only [State.busAccess, State.busWrite]
    split
    · cases hostRegAt off with
      | id | unmapped => exact ⟨rfl, .inl ⟨rfl, rfl⟩⟩
      | ctrl =>
        simp only [State.writeCtrl]
        split
        · exact ⟨rfl, .inr ⟨rfl, rfl⟩⟩
        · exact ⟨rfl, .inl ⟨rfl, rfl⟩⟩
      | status =>
        rw [writeStatus_withK s K]
        exact ⟨rfl, .inl ⟨(BodyHeld.writeStatus s v).K, rfl⟩⟩
      | cmd =>
        simp only [State.issue]
        split
        · exact ⟨rfl, .inl ⟨rfl, rfl⟩⟩
        · cases decode v <;> exact ⟨rfl, .inl ⟨rfl, rfl⟩⟩
      | data =>
        simp only [State.writeData]
        split <;> exact ⟨rfl, .inl ⟨rfl, rfl⟩⟩
    · exact ⟨rfl, .inl ⟨rfl, rfl⟩⟩

/-- Settles O59: a step with a transaction next is that transaction. -/
theorem busAccessesDoNotSeeKeys : Obligations.BusAccessesDoNotSeeKeys := fun s K a rest ha =>
  ⟨_, _, step_cons ha, step_cons (s := { s with K := K }) ha, busAccess_withK { s with agenda := rest } K a⟩

end Sys2Proof.Machine
end

section
/-! The register window (20_memory.md R72, R73, R77, R80): what a host read returns, what a host write does, and where
the window stands. Offsets are spoken of as numbers. -/

namespace Sys2Proof.Machine

/-- R77: the one supported access is a 32-bit access at a multiple of 4. -/
theorem accessOk_iff {off : Offset} {size : AccessSize} :
    accessOk off size = true ↔ size = .word ∧ off.toNat % 4 = 0 := by
  have haligned : off.extractLsb' 0 2 = 0 ↔ off.toNat % 4 = 0 := by simp [← BitVec.toNat_inj]
  simp only [accessOk, Bool.and_eq_true, beq_iff_eq, haligned]

theorem ite_accessOk {α : Type} (off : Offset) (size : AccessSize) (x y : α) :
    (if accessOk off size then x else y) = if size ≠ .word ∨ off.toNat % 4 ≠ 0 then y else x := by
  simp only [accessOk_iff, ne_eq, ← not_and_or, ite_not]

/-- R45: the host register map at the offsets' numbers. -/
theorem hostRegAt_toNat (off : Offset) :
    hostRegAt off =
      if off.toNat = 0x00 then .id
      else if off.toNat = 0x04 then .ctrl
      else if off.toNat = 0x08 then .status
      else if off.toNat = 0x0C then .cmd
      else if off.toNat = 0x10 then .data
      else .unmapped := by
  simp [hostRegAt, ← BitVec.toNat_inj]

theorem ctrlWord_eq_ofNat (s : State) : s.ctrlWord = BitVec.ofNat 32 s.ie.toNat := by
  apply BitVec.eq_of_toNat_eq
  simp [State.ctrlWord]

/-- R43: STATUS is its fields, each at the weight of its lowest bit. -/
theorem statusWord_eq_ofNat (s : State) :
    s.statusWord = BitVec.ofNat 32 (s.busy.toNat + 2 * s.done.toNat + 4 * s.err.toNat + 8 * s.flag.toNat +
      16 * s.cmpr.toNat + 256 * s.errcode.toNat) := by
  apply BitVec.eq_of_toNat_eq
  simp only [State.statusWord, BitVec.toNat_setWidth, BitVec.toNat_ofNat, BitVec.ofNat_eq_ofNat,
    toNat_append_add, BitVec.toNat_ofBool]
  congr 1
  omega

/-- R72 at the offsets' numbers; CMD reads 0, as an unmapped offset does. -/
theorem busRead_toNat (s : State) (off : Offset) (size : AccessSize) :
    s.busRead off size =
      if size ≠ .word ∨ off.toNat % 4 ≠ 0 then 0
      else if off.toNat = 0x00 then idValue
      else if off.toNat = 0x04 then s.ctrlWord
      else if off.toNat = 0x08 then s.statusWord
      else if off.toNat = 0x10 then s.data
      else 0 := by
  rw [State.busRead, ite_accessOk, hostRegAt_toNat]
  by_cases hcmd : off.toNat = 0x0C
  · simp [hcmd]
  · rw [if_neg hcmd]
    split_ifs <;> rfl

/-- R73 at the offsets' numbers. -/
theorem busWrite_toNat (s : State) (off : Offset) (size : AccessSize) (v : Word) :
    s.busWrite off size v =
      if size ≠ .word ∨ off.toNat % 4 ≠ 0 then s.cmdError .badacc
      else if off.toNat = 0x00 then s
      else if off.toNat = 0x04 then s.writeCtrl v
      else if off.toNat = 0x08 then s.writeStatus v
      else if off.toNat = 0x0C then s.issue v
      else if off.toNat = 0x10 then s.writeData v
      else s.cmdError .badacc := by
  rw [State.busWrite, ite_accessOk, hostRegAt_toNat]
  split_ifs <;> rfl

/-- R43: a STATUS write field by field. -/
theorem writeStatus_eq (s : State) (v : Word) :
    s.writeStatus v =
      { s with
        done := s.done && !v.getLsbD 1
        err := s.err && !v.getLsbD 2
        errcode := if v.getLsbD 2 then 0 else s.errcode } := by
  unfold State.writeStatus
  cases v.getLsbD 1 <;> cases v.getLsbD 2 <;> simp [State.clearDone, State.clearErr]

/-- Settles O52: the step is the transaction, and the host receives what the read returns. -/
theorem busReadReturnsRegister : Obligations.BusReadReturnsRegister := by
  intro s off size rest ha
  rw [step_cons ha]
  simp only [State.happen, State.busAccess, State.receive, busRead_toNat, ctrlWord_eq_ofNat, statusWord_eq_ofNat]
  rfl

/-- Settles O53: the step is the transaction, and what stands at the offset acts on the write; CTRL, CMD, DATA and the
command error do so by their definitions, STATUS field by field. -/
theorem busWriteActsOnRegister : Obligations.BusWriteActsOnRegister := by
  intro s off size v rest ha
  rw [step_cons ha]
  simp only [State.happen, State.busAccess, busWrite_toNat, writeStatus_eq]
  rfl

/-- R80: an address lies at an offset of the window exactly when it is the base plus the offset. -/
theorem windowOffset_eq_some_iff {addr : Nat} {off : Offset} :
    windowOffset addr = some off ↔ addr = Config.c255Base + off.toNat := by
  have hoff := off.isLt
  rw [windowOffset, Option.ite_none_right_eq_some, Option.some.injEq, ← BitVec.toNat_inj, BitVec.toNat_ofNat]
  omega

/-- Settles O60: the base is a multiple of 256 by its definition, and each address of the window is the base plus one
offset. -/
theorem windowHasEveryOffsetOnce : Obligations.WindowHasEveryOffsetOnce :=
  ⟨Nat.mul_mod_right 256 Config.c255Page, fun _ => windowOffset_eq_some_iff.2 rfl,
    fun _ _ => windowOffset_eq_some_iff.1⟩

end Sys2Proof.Machine
end

section
/-! The decoder and the encoder are inverse on the well-formed commands (30_encoding.md R100, R103, R105, R107), and the
examples of R108. -/

namespace Sys2Proof

/-- A command whose word carries the opcode of a row that builds it back decodes by that row's operand checks. -/
theorem decode_encode_of_packWord {i : Instr} {opc : BitVec 8} {rd ra rb rc : KReg} {imm : BitVec 8} {r : OpRow}
    (he : encode i = packWord opc rd ra rb rc imm) (hr : findRow opc = some r) (hb : r.build rd ra rb rc imm = i)
    (hwf : i.wellFormed = (r.rd.admits rd && r.ra.admits ra && r.rb.admits rb && r.rc.admits rc &&
      decide (imm.toNat ≤ r.immMax) && !(r.distinct && rd == ra))) :
    decode (encode i) = if i.wellFormed then .command i else .illopnd := by
  rw [he, decode_packWord hr, hb, hwf]

/-- Each command's word passes the operand checks exactly when the command is well-formed: an unused field is 0, a whole
register or immediate field admits every value, and the other checks are the same (R105, R107). -/
theorem decode_encode (i : Instr) : decode (encode i) = if i.wellFormed then .command i else .illopnd := by
  have himm (imm : BitVec 8) : imm.toNat ≤ 255 := by omega
  cases i <;>
    exact decode_encode_of_packWord rfl rfl rfl (by simp [FieldUse.admits, Instr.wellFormed, KReg.isPair, himm, bne])

/-- Settles O7: a well-formed command's word passes the operand checks. -/
theorem decodeOfEncodeIsIdentity : Obligations.DecodeOfEncodeIsIdentity := by
  intro i hi
  rw [decode_encode, if_pos hi]

/-! ### A decoded word is its command's word -/

theorem mem_of_findRow {opc : BitVec 8} {r : OpRow} (h : findRow opc = some r) : r ∈ opTable ∧ r.opc = opc :=
  ⟨List.mem_of_find?_eq_some h, by simpa using List.find?_some h⟩

/-- R106: without a row the opcode is illegal. -/
theorem decode_of_findRow_none {w : Word} (h : findRow (opcField w) = none) : decode w = .illop := by
  simp only [decode, h]

/-- R107: the row of a legal opcode decides. -/
theorem decode_of_findRow_some {w : Word} {r : OpRow} (h : findRow (opcField w) = some r) :
    decode w =
      if r.operandsOk w then .command (r.build (rdField w) (raField w) (rbField w) (rcField w) (immField w))
      else .illopnd := by
  simp only [decode, h]

/-- A decoded word has a row, which its operands satisfy and which builds its command. -/
theorem exists_row_of_decode {w : Word} {i : Instr} (h : decode w = .command i) :
    ∃ r, findRow (opcField w) = some r ∧ r.operandsOk w = true ∧
      r.build (rdField w) (raField w) (rbField w) (rcField w) (immField w) = i := by
  cases hr : findRow (opcField w) with
  | none => simp [decode_of_findRow_none hr] at h
  | some r =>
    rw [decode_of_findRow_some hr] at h
    split at h
    · next hok => exact ⟨r, rfl, hok, by simpa using h⟩
    · cases h

/-- Row by row of R105: the fields a row's command does not hold are those the operand checks find 0 (R103). -/
theorem encode_build_of_operandsOk (w : Word) :
    ∀ r ∈ opTable, r.operandsOk w = true →
      encode (r.build (rdField w) (raField w) (rbField w) (rcField w) (immField w)) =
        packWord r.opc (rdField w) (raField w) (rbField w) (rcField w) (immField w) := by
  have himm : (immField w).toNat = 0 → immField w = 0 := fun h => BitVec.eq_of_toNat_eq h
  simp only [opTable, opRowsField, opRowsLadder, opRowsCompare, opRowsAccess, List.forall_mem_append,
    List.forall_mem_cons]
  simp +contextual [OpRow.operandsOk, FieldUse.admits, encode, himm]

/-- Settles O8: the row that decodes the word builds a command whose word packs the word's own fields. -/
theorem encodeOfDecodeIsIdentity : Obligations.EncodeOfDecodeIsIdentity := by
  intro w i h
  refine ⟨?_, wellFormed_of_decode h⟩
  obtain ⟨r, hr, hok, rfl⟩ := exists_row_of_decode h
  obtain ⟨hmem, hopc⟩ := mem_of_findRow hr
  rw [encode_build_of_operandsOk w r hmem hok, hopc, packWord_fields]

/-- Settles O6, by evaluation of each listed word. -/
theorem exampleWordsDecodeAsListed : Obligations.ExampleWordsDecodeAsListed := by
  unfold Obligations.ExampleWordsDecodeAsListed
  decide

end Sys2Proof
end

section
/-! The words the decoder refuses, in numbers (30_encoding.md R102 to R107): the fields of a word as quotients of it, the
opcode table's columns as lists of opcodes, and the refusals read off them. -/

namespace Sys2Proof

/-! ### The fields of a word as numbers (R100) -/

theorem opcField_toNat (w : Word) : (opcField w).toNat = w.toNat / 2 ^ 24 := by
  rw [opcField, BitVec.extractLsb'_toNat, Nat.shiftRight_eq_div_pow]
  omega

theorem rdField_val (w : Word) : (rdField w).val = w.toNat / 2 ^ 20 % 16 := by
  simp [rdField, Nat.shiftRight_eq_div_pow]

theorem raField_val (w : Word) : (raField w).val = w.toNat / 2 ^ 16 % 16 := by
  simp [raField, Nat.shiftRight_eq_div_pow]

theorem rbField_val (w : Word) : (rbField w).val = w.toNat / 2 ^ 12 % 16 := by
  simp [rbField, Nat.shiftRight_eq_div_pow]

theorem rcField_val (w : Word) : (rcField w).val = w.toNat / 2 ^ 8 % 16 := by
  simp [rcField, Nat.shiftRight_eq_div_pow]

theorem immField_toNat (w : Word) : (immField w).toNat = w.toNat % 256 := by
  simp [immField, BitVec.extractLsb'_toNat]

/-! ### The columns of the opcode table (R105) -/

/-- The opcodes of R105, in its order. -/
def legalOpcodes : List Nat :=
  [0x00, 0x01, 0x02, 0x03, 0x04, 0x05, 0x06, 0x10, 0x11, 0x12, 0x13, 0x14, 0x20, 0x21, 0x22, 0x30, 0x31, 0x32,
    0x40, 0x41, 0x42, 0x43, 0x44, 0x45]

theorem opTable_map_opc : opTable.map (fun r => r.opc.toNat) = legalOpcodes := rfl

/-- The opcode groups 0x0_ to 0x4_ are filled from their low ends. -/
theorem legalOpcodes_eq_ranges : legalOpcodes =
    List.range' 0x00 7 ++ List.range' 0x10 5 ++ List.range' 0x20 3 ++ List.range' 0x30 3 ++ List.range' 0x40 6 := rfl

theorem findRow_eq_none_iff {opc : BitVec 8} : findRow opc = none ↔ opc.toNat ∉ legalOpcodes := by
  rw [findRow, List.find?_eq_none, ← opTable_map_opc, List.mem_map]
  simp [BitVec.toNat_inj]

theorem opTable_rd_unused : ∀ r ∈ opTable,
    (r.rd = .unused ↔ r.opc.toNat ∈ [0x00, 0x12, 0x20, 0x21, 0x22, 0x40, 0x42, 0x44]) := by decide

theorem opTable_rd_pair : ∀ r ∈ opTable, (r.rd = .pair ↔ r.opc.toNat ∈ [0x10, 0x11, 0x13]) := by decide

theorem opTable_ra_unused : ∀ r ∈ opTable,
    (r.ra = .unused ↔ r.opc.toNat ∈ [0x00, 0x31, 0x32, 0x41, 0x43, 0x45]) := by decide

theorem opTable_ra_pair : ∀ r ∈ opTable, (r.ra = .pair ↔ r.opc.toNat ∈ [0x10, 0x11, 0x13]) := by decide

theorem opTable_rb_unused : ∀ r ∈ opTable,
    (r.rb = .unused ↔ r.opc.toNat ∈ [0x00, 0x04, 0x05, 0x06, 0x10, 0x20, 0x22, 0x30, 0x31, 0x32, 0x40, 0x41, 0x42, 0x43,
      0x44, 0x45]) := by decide

theorem opTable_rb_pair : ∀ r ∈ opTable, (r.rb = .pair ↔ r.opc.toNat = 0x11) := by decide

theorem opTable_rc_unused : ∀ r ∈ opTable, (r.rc = .unused ↔ r.opc.toNat ∉ [0x11, 0x12, 0x13]) := by decide

theorem opTable_rc_not_pair : ∀ r ∈ opTable, r.rc ≠ .pair := by decide

theorem opTable_distinct : ∀ r ∈ opTable, (r.distinct = true ↔ r.opc.toNat = 0x13) := by decide

/-- R102: the immediates above a row's range. -/
theorem opTable_immMax_lt_iff {imm : Nat} (himm : imm < 256) : ∀ r ∈ opTable,
    (r.immMax < imm ↔
      (r.opc.toNat ∈ [0x00, 0x01, 0x02, 0x03, 0x04, 0x05, 0x06, 0x10, 0x11, 0x14, 0x20, 0x21, 0x22, 0x30] ∧ imm ≠ 0) ∨
        (r.opc.toNat = 0x32 ∧ 14 < imm) ∨ (r.opc.toNat ∈ [0x42, 0x43] ∧ 31 < imm) ∨
        (r.opc.toNat ∈ [0x44, 0x45] ∧ 7 < imm)) := by
  have hmax : imm ≤ 255 := by omega
  simp only [opTable, opRowsField, opRowsLadder, opRowsCompare, opRowsAccess, List.forall_mem_append,
    List.forall_mem_cons]
  simp [Nat.pos_iff_ne_zero, hmax]

/-! ### What the decoder refuses (R103, R104, R106, R107) -/

theorem decode_eq_illop_iff {w : Word} : decode w = .illop ↔ findRow (opcField w) = none := by
  refine ⟨fun h => ?_, decode_of_findRow_none⟩
  cases hr : findRow (opcField w) with
  | none => rfl
  | some r =>
    rw [decode_of_findRow_some hr] at h
    split at h <;> cases h

theorem decode_eq_illopnd_iff_of_findRow_some {w : Word} {r : OpRow} (h : findRow (opcField w) = some r) :
    decode w = .illopnd ↔ r.operandsOk w = false := by
  rw [decode_of_findRow_some h]
  split
  · next hok => simp [hok]
  · next hok => simp [hok]

/-- R103, R104: what an unused field and a point-pair field refuse. -/
theorem FieldUse.admits_eq_false_iff {f : FieldUse} {r : KReg} :
    f.admits r = false ↔ (f = .unused ∧ r.val ≠ 0) ∨ (f = .pair ∧ r.val % 2 = 1) := by
  cases f with
  | unused => simp [FieldUse.admits]
  | reg => simp [FieldUse.admits]
  | pair => simp [FieldUse.admits]

theorem OpRow.operandsOk_eq_false_iff {r : OpRow} {w : Word} :
    r.operandsOk w = false ↔
      r.rd.admits (rdField w) = false ∨ r.ra.admits (raField w) = false ∨ r.rb.admits (rbField w) = false ∨
        r.rc.admits (rcField w) = false ∨ r.immMax < (immField w).toNat ∨
        (r.distinct = true ∧ (rdField w).val = (raField w).val) := by
  simp only [OpRow.operandsOk, Bool.and_eq_false_iff, or_assoc, Bool.not_eq_false', Bool.and_eq_true,
    decide_eq_false_iff_not, not_le, beq_iff_eq, Fin.ext_iff]

/-- Settles O9: R106's ranges are the gaps between R105's opcode groups. -/
theorem illegalOpcodesAreIllop : Obligations.IllegalOpcodesAreIllop := by
  intro w
  have hn := (opcField w).isLt
  rw [decode_eq_illop_iff, findRow_eq_none_iff, ← opcField_toNat]
  simp only [legalOpcodes_eq_ranges, List.mem_append, List.mem_range'_1]
  omega

/-- Settles O10: an opcode without a row decodes to ILLOP; the columns of a row say which operand check fails. -/
theorem illegalOperandsAreIllopnd : Obligations.IllegalOperandsAreIllopnd := by
  intro w
  dsimp only
  rw [← opcField_toNat, ← rdField_val, ← raField_val, ← rbField_val, ← rcField_val, ← immField_toNat, ← legalOpcodes]
  cases hrow : findRow (opcField w) with
  | none =>
    have hn := findRow_eq_none_iff.1 hrow
    simp [decode_of_findRow_none hrow, hn]
  | some r =>
    obtain ⟨hr, hopc⟩ := mem_of_findRow hrow
    have hn : (opcField w).toNat ∈ legalOpcodes := hopc ▸ opTable_map_opc ▸ List.mem_map_of_mem hr
    rw [decode_eq_illopnd_iff_of_findRow_some hrow, OpRow.operandsOk_eq_false_iff]
    simp only [FieldUse.admits_eq_false_iff, opTable_rd_unused r hr, opTable_rd_pair r hr, opTable_ra_unused r hr,
      opTable_ra_pair r hr, opTable_rb_unused r hr, opTable_rb_pair r hr, opTable_rc_unused r hr,
      opTable_rc_not_pair r hr, opTable_immMax_lt_iff (immField w).isLt r hr, opTable_distinct r hr, hopc, hn,
      and_or_left, true_and, false_and, or_false]
    exact iff_of_eq (by ac_rfl)

end Sys2Proof
end

section
/-! A command that writes one key register, its command word, and commands one after another (30_encoding.md R100,
10_state.md R50). -/

namespace Sys2Proof.Machine

/-- The word a well-formed command packs decodes to it, with the word written as a number. -/
theorem decode_cmdWord {opc : Nat} {rd ra rb rc : KReg} {imm : BitVec 8} {i : Instr} (hopc : opc < 256)
    (he : encode i = packWord (BitVec.ofNat 8 opc) rd ra rb rc imm) (hw : i.wellFormed = true) :
    decode (cmdWord opc rd ra rb rc imm) = .command i := by
  rw [cmdWord_eq hopc, ← he, decodeOfEncodeIsIdentity i hw]

theorem WroteOnlyKeys.writeK_completed (s : State) (r : KReg) (v : Key) :
    WroteOnlyKeys s (s.writeK r v).completed [r] where
  busy := rfl
  done := rfl
  pend := rfl
  err := rfl
  errcode := rfl
  ie := rfl
  agenda := rfl
  reads := rfl
  draws := rfl
  keys := .completed (.writeK (.refl s [r]) (by simp))
  data := rfl
  flag := rfl
  cmpr := rfl

theorem readK_writeK_completed (s : State) (r : KReg) (v : Key) : (s.writeK r v).completed.readK r = v := by
  rw [completed_readK, readK_writeK_same]

theorem execAll_cons {i : Instr} {is : List Instr} {s t : State} (h : exec i s = .next t) :
    execAll (i :: is) s = execAll is t := by
  simp only [execAll, h]

end Sys2Proof.Machine
end

section
/-! The completion of each field command (40_field.md), as a write of one key register. -/

namespace Sys2Proof.Machine

variable (s : State) (rd ra rb : KReg)

theorem exec_fadd : exec (.fadd rd ra rb) s = .next (s.writeK rd (add (s.readK ra) (s.readK rb))).completed := rfl

theorem exec_fsub : exec (.fsub rd ra rb) s = .next (s.writeK rd (sub (s.readK ra) (s.readK rb))).completed := rfl

theorem exec_fmul : exec (.fmul rd ra rb) s = .next (s.writeK rd (mul (s.readK ra) (s.readK rb))).completed := rfl

theorem exec_fsqr : exec (.fsqr rd ra) s = .next (s.writeK rd (sqr (s.readK ra))).completed := rfl

theorem exec_fmuls : exec (.fmuls rd ra) s = .next (s.writeK rd (muls (s.readK ra))).completed := rfl

theorem exec_finv : exec (.finv rd ra) s = .next (s.writeK rd (inv (s.readK ra))).completed := rfl

end Sys2Proof.Machine
end

section
/-! Field arithmetic in natural numbers: residues mod p, and Fermat's little theorem for `inv` (40_field.md R143, R150 to
R152). -/

namespace Sys2Proof.Machine

theorem p_eq : p = 2 ^ 255 - 19 := by decide

theorem p_int : (p : Int) = 2 ^ 255 - 19 := by decide

theorem mul_toNat (a b : Key) : (mul a b).toNat = a.toNat * b.toNat % p := by
  have h := mul_int a b
  simp only [int] at h
  exact_mod_cast h

theorem sqr_eq_mul (a : Key) : sqr a = mul a a := rfl

/-- R151: an operand ≡ 0 has no inverse, and its Fermat power is 0. -/
theorem inv_eq_zero {a : Key} (h : a.toNat % p = 0) : inv a = 0 := by
  have hexp : p - 2 ≠ 0 := by decide
  apply BitVec.eq_of_toNat_eq
  rw [inv_toNat]
  exact Nat.mod_eq_zero_of_dvd (dvd_pow (Nat.dvd_of_mod_eq_zero h) hexp)

/-- R152: Fermat's little theorem, p being prime. -/
theorem mul_inv_eq_one {a : Key} (h : a.toNat % p ≠ 0) : mul a (inv a) = 1 := by
  have hcop : a.toNat.Coprime p := (p_prime.coprime_iff_not_dvd.2 fun hd => h (Nat.mod_eq_zero_of_dvd hd)).symm
  have hexp : p - 2 + 1 = p - 1 := by decide
  apply BitVec.eq_of_toNat_eq
  calc (mul a (inv a)).toNat
      = a.toNat ^ (p - 1) % p := by rw [mul_toNat, inv_toNat, Nat.mul_mod_mod, ← pow_succ', hexp]
    _ = 1 % p := Nat.ModEq.pow_card_sub_one_eq_one p_prime hcop
    _ = (1 : Key).toNat := by decide

end Sys2Proof.Machine
end

section
/-! Settled: the field commands (40_field.md R141 to R152). Each completion is a write of the operation's value to RD. -/

namespace Sys2Proof.Machine

/-- Settles O11: the value written is `add` of the operands. -/
theorem faddWritesSumModP : Obligations.FaddWritesSumModP := by
  intro s rd ra rb
  refine ⟨decode_cmdWord (by decide) rfl rfl, _, exec_fadd s rd ra rb, .writeK_completed s rd _, ?_⟩
  rw [readK_writeK_completed, add_int, p_int]

/-- Settles O12: the value written is `sub` of the operands. -/
theorem fsubWritesDifferenceModP : Obligations.FsubWritesDifferenceModP := by
  intro s rd ra rb
  refine ⟨decode_cmdWord (by decide) rfl rfl, _, exec_fsub s rd ra rb, .writeK_completed s rd _, ?_⟩
  rw [readK_writeK_completed, sub_int, p_int]

/-- Settles O13: the value written is `mul` of the operands. -/
theorem fmulWritesProductModP : Obligations.FmulWritesProductModP := by
  intro s rd ra rb
  refine ⟨decode_cmdWord (by decide) rfl rfl, _, exec_fmul s rd ra rb, .writeK_completed s rd _, ?_⟩
  rw [readK_writeK_completed, mul_int, p_int]

/-- Settles O14: the value written is `sqr` of the operand, which is `mul` of it with itself. -/
theorem fsqrWritesSquareModP : Obligations.FsqrWritesSquareModP := by
  intro s rd ra
  refine ⟨decode_cmdWord (by decide) rfl rfl, by rw [exec_fsqr, exec_fmul, sqr_eq_mul], _, exec_fsqr s rd ra,
    .writeK_completed s rd _, ?_⟩
  rw [readK_writeK_completed, sqr_int, p_int]

/-- Settles O15: the value written is `muls` of the operand, and a24 is 121665. -/
theorem fmulsWritesA24ProductModP : Obligations.FmulsWritesA24ProductModP := by
  intro s rd ra
  refine ⟨decode_cmdWord (by decide) rfl rfl, _, exec_fmuls s rd ra, .writeK_completed s rd _, ?_⟩
  rw [readK_writeK_completed, muls_int, p_int, a24, Nat.cast_ofNat]

/-- Settles O16: the value written is `inv` of the operand, its Fermat power. -/
theorem finvWritesFermatPower : Obligations.FinvWritesFermatPower := by
  intro s rd ra
  refine ⟨decode_cmdWord (by decide) rfl rfl, _, exec_finv s rd ra, .writeK_completed s rd _, ?_⟩
  rw [readK_writeK_completed]
  exact ⟨inv_toNat _, inv_eq_zero⟩

/-- Settles O17: FINV leaves the operand in RA, so FMUL multiplies it by its inverse. -/
theorem inverseTimesOperandIsOne : Obligations.InverseTimesOperandIsOne := by
  intro s rd rq ra hne hx
  refine ⟨_, (execAll_cons (exec_finv s rd ra)).trans (execAll_cons (exec_fmul _ rq ra rd)), ?_⟩
  rw [readK_writeK_completed, readK_writeK_completed, completed_readK, readK_writeK_ne s _ hne.symm]
  exact mul_inv_eq_one hx

end Sys2Proof.Machine
end

section
/-! The reference inversion chain (40_field.md R156), by the exponents the rule writes beside its steps. -/

namespace Sys2Proof.Machine

/-- The value is the k-th power of z mod p; z itself need not be below p. -/
def IsPower (z : Key) (k : Nat) (x : Key) : Prop := x.toNat ≡ z.toNat ^ k [MOD p]

namespace IsPower

variable {z x y : Key} {j k : Nat}

theorem self (z : Key) : IsPower z 1 z := by rw [IsPower, pow_one]

theorem mul (hx : IsPower z j x) (hy : IsPower z k y) : IsPower z (j + k) (mul x y) := by
  rw [IsPower, mul_toNat, pow_add]
  exact (Nat.mod_modEq _ p).trans (Nat.ModEq.mul hx hy)

theorem sqr (hx : IsPower z k x) : IsPower z (k * 2) (sqr x) := by
  rw [sqr_eq_mul, mul_two]
  exact hx.mul hx

theorem sqrN (n : Nat) (hx : IsPower z k x) : IsPower z (k * 2 ^ n) (sqrN n x) := by
  induction n generalizing k x with
  | zero => rwa [pow_zero, mul_one]
  | succ n ih =>
    rw [pow_succ', ← mul_assoc]
    exact ih hx.sqr

end IsPower

theorem isPower_invChain (z : Key) : IsPower z (p - 2) (invChain z) := by
  have z1 := IsPower.self z
  have z2 : IsPower z 2 _ := z1.sqr
  have z9 : IsPower z 9 _ := (z2.sqrN 2).mul z1
  have z11 : IsPower z 11 _ := z9.mul z2
  have z_5_0 : IsPower z (2 ^ 5 - 1) _ := z11.sqr.mul z9
  have z_10_0 : IsPower z (2 ^ 10 - 1) _ := (z_5_0.sqrN 5).mul z_5_0
  have z_20_0 : IsPower z (2 ^ 20 - 1) _ := (z_10_0.sqrN 10).mul z_10_0
  have z_40_0 : IsPower z (2 ^ 40 - 1) _ := (z_20_0.sqrN 20).mul z_20_0
  have z_50_0 : IsPower z (2 ^ 50 - 1) _ := (z_40_0.sqrN 10).mul z_10_0
  have z_100_0 : IsPower z (2 ^ 100 - 1) _ := (z_50_0.sqrN 50).mul z_50_0
  have z_200_0 : IsPower z (2 ^ 200 - 1) _ := (z_100_0.sqrN 100).mul z_100_0
  have z_250_0 : IsPower z (2 ^ 250 - 1) _ := (z_200_0.sqrN 50).mul z_50_0
  exact (z_250_0.sqrN 5).mul z11

theorem invChain_eq_mul (z : Key) : ∃ x y, invChain z = mul x y := ⟨_, _, rfl⟩

/-- Settles O18: the chain's last step is a multiplication, so its result is the residue of the power. -/
theorem inversionChainIsFermatPower : Obligations.InversionChainIsFermatPower := by
  intro z
  obtain ⟨x, y, hxy⟩ := invChain_eq_mul z
  rw [← isPower_invChain z, hxy, mul_toNat, Nat.mod_mod]

end Sys2Proof.Machine
end

section
/-! The reference reduction and the source's algorithms for canonical operands (40_field.md R144, R147, R148). -/

namespace Sys2Proof.Machine

/-- Folding the part above n down by a factor c ≡ n keeps the residue. -/
theorem mod_add_mul_div_modEq {n c : Nat} (h : c ≡ n [MOD p]) (t : Nat) : t % n + c * (t / n) ≡ t [MOD p] :=
  calc t % n + c * (t / n) ≡ t % n + n * (t / n) [MOD p] := (h.mul_right _).add_left _
    _ = t := Nat.mod_add_div t n

theorem foldPass_modEq (t : Nat) : foldPass t ≡ t [MOD p] := by
  unfold foldPass
  split
  · exact mod_add_mul_div_modEq (by decide) t
  · rfl

theorem foldPass_lt {t b : Nat} (h : t < 2 ^ 256 * b) : foldPass t < 2 ^ 256 + 38 * b := by
  have hq : t / 2 ^ 256 < b := Nat.div_lt_of_lt_mul h
  unfold foldPass
  split <;> omega

/-- A last pass over a value a little above 2^256 carries no further. -/
theorem foldPass_lt_of_lt {t : Nat} (h : t < 2 ^ 256 + 38 * 39) : foldPass t < 2 ^ 256 := by
  unfold foldPass
  split <;> omega

theorem foldPass_three_lt {t : Nat} (h : t < 2 ^ 512) : foldPass (foldPass (foldPass t)) < 2 ^ 256 := by
  rw [show 512 = 256 + 256 from rfl, pow_add] at h
  have h1 : foldPass t < 2 ^ 256 + 38 * 2 ^ 256 := foldPass_lt h
  have h2 : foldPass (foldPass t) < 2 ^ 256 + 38 * 39 := foldPass_lt (by omega)
  exact foldPass_lt_of_lt h2

/-- One conditional subtraction reduces a value below 2p. -/
theorem condSub_eq_mod {x : Nat} (h : x < 2 * p) : (if p ≤ x then x - p else x) = x % p := by
  split
  · next hle => rw [Nat.mod_eq_sub_mod hle, Nat.mod_eq_of_lt (by omega)]
  · next hlt => rw [Nat.mod_eq_of_lt (by omega)]

/-- R144: folding and the top-bit correction keep the residue, and the correction leaves a value below 2p. -/
theorem reduceRef_eq_mod {t : Nat} (h : t < 2 ^ 512) : reduceRef t = t % p := by
  have hlt := foldPass_three_lt h
  have hmod : foldPass (foldPass (foldPass t)) ≡ t [MOD p] :=
    (foldPass_modEq _).trans ((foldPass_modEq _).trans (foldPass_modEq t))
  unfold reduceRef
  generalize foldPass (foldPass (foldPass t)) = u at hlt hmod
  have htop : u % 2 ^ 255 + 19 * (u / 2 ^ 255) ≡ u [MOD p] := mod_add_mul_div_modEq (by decide) u
  rw [condSub_eq_mod (by rw [p_eq]; omega)]
  exact htop.trans hmod

/-- R147. -/
theorem add_toNat_of_canonical {a b : Key} (ha : a.toNat < p) (hb : b.toNat < p) :
    (add a b).toNat = addCanonical a.toNat b.toNat := by
  have h := add_int a b
  simp only [int] at h
  rw [addCanonical, condSub_eq_mod (by omega)]
  exact_mod_cast h

/-- R148: the difference is the residue itself, or p below it. -/
theorem sub_toNat_of_canonical {a b : Key} (ha : a.toNat < p) (hb : b.toNat < p) :
    (sub a b).toNat = subCanonical a.toNat b.toNat := by
  have h := sub_int a b
  simp only [int] at h
  unfold subCanonical
  split
  · next hlt =>
    rw [← Int.add_emod_right, Int.emod_eq_of_lt (by omega) (by omega)] at h
    omega
  · next hge =>
    rw [Int.emod_eq_of_lt (by omega) (by omega)] at h
    omega

/-- Settles O19: the reduction, the addition, the subtraction. -/
theorem referenceDatapathsConform : Obligations.ReferenceDatapathsConform :=
  ⟨fun _ h => reduceRef_eq_mod h,
    fun _ _ ha hb => ⟨add_toNat_of_canonical ha hb, sub_toNat_of_canonical ha hb⟩⟩

end Sys2Proof.Machine
end

section
/-! A command that writes key registers alone, its frame from the lists of what commands write (10_state.md R32, R35 to
R37), and the point pairs it writes (30_encoding.md R104). -/

namespace Sys2Proof.Machine

/-! ### The frame -/

/-- A completion that writes neither FLAG nor CMPR nor DATA writes nothing but the command's listed key registers. -/
theorem WroteOnlyKeys.of_exec {i : Instr} {s t : State} (h : exec i s = .next t) (hflag : i.writesFlag = false)
    (hcmpr : i.writesCmpr = false) (hdata : i.writesData = false) : WroteOnlyKeys s t i.keysWritten := by
  rw [← execOver_default] at h
  have hkeys := execOver_keysKept h
  have hf := execOver_flag_kept h hflag
  have hc := execOver_cmpr_kept h hcmpr
  have hd := execOver_data_kept h hdata
  obtain ⟨K, data, flag, cmpr, rfl⟩ := execOver_next h
  exact ⟨⟨rfl, rfl, rfl, rfl, rfl, rfl, rfl, rfl, rfl⟩, hkeys, hd, hf, hc⟩

/-- Two commands one after another write what either writes. -/
theorem WroteOnlyKeys.trans {s t u : State} {ks : List KReg} (h : WroteOnlyKeys s t ks) (h' : WroteOnlyKeys t u ks) :
    WroteOnlyKeys s u ks where
  busy := h'.busy
  done := h'.done
  pend := h'.pend
  err := h'.err.trans h.err
  errcode := h'.errcode.trans h.errcode
  ie := h'.ie.trans h.ie
  agenda := h'.agenda.trans h.agenda
  reads := h'.reads.trans h.reads
  draws := h'.draws.trans h.draws
  keys := fun r hr => (h'.keys r hr).trans (h.keys r hr)
  data := h'.data.trans h.data
  flag := h'.flag.trans h.flag
  cmpr := h'.cmpr.trans h.cmpr

/-- The list of written keys may shrink to any list outside which the keys are kept. -/
theorem WroteOnlyKeys.of_keysKept {s t : State} {ks ks' : List KReg} (h : WroteOnlyKeys s t ks)
    (hkeys : KeysKept s t ks') : WroteOnlyKeys s t ks' := { h with keys := hkeys }

/-! ### Point pairs -/

theorem isPair_of_even {r : KReg} (h : r.val % 2 = 0) : r.isPair = true := by simp [KReg.isPair, h]

theorem readK_writePoint_completed_X (s : State) (r : KReg) (pt : Point) :
    (s.writePoint r pt).completed.readK r = pt.X := by
  rw [completed_readK, readK_writePoint, if_neg (pairZ_ne r).symm, if_pos rfl]

theorem readK_writePoint_completed_Z (s : State) (r : KReg) (pt : Point) :
    (s.writePoint r pt).completed.readK (r + 1) = pt.Z :=
  (readK_writePoint s r (pairZ r) pt).trans (if_pos rfl)

/-- Two pairs with different X registers have no register in common (R104). -/
theorem readPoint_writePoint_ne (s : State) {r q : KReg} (pt : Point) (hr : r.isPair) (hq : q.isPair) (hne : q ≠ r) :
    (s.writePoint r pt).readPoint q = s.readPoint q := by
  have hZX : pairZ q ≠ r := pairZ_ne_of_isPair hq hr
  have hXZ : q ≠ pairZ r := (pairZ_ne_of_isPair hr hq).symm
  have hZZ : pairZ q ≠ pairZ r := fun h => hne (pairZ_inj h)
  simp only [State.readPoint, readK_writePoint, if_neg hXZ, if_neg hne, if_neg hZZ, if_neg hZX]

end Sys2Proof.Machine
end

section
/-! The completion of each ladder command (41_ladder.md). -/

namespace Sys2Proof.Machine

variable (s : State) (rd ra rb rc : KReg) (bit : BitVec 8)

theorem exec_pdbl : exec (.pdbl rd ra) s = .next (s.writePoint rd (dbl (s.readPoint ra))).completed := rfl

theorem exec_pdadd :
    exec (.pdadd rd ra rb rc) s =
      .next (s.writePoint rd (dadd (s.readPoint ra) (s.readPoint rb) (s.readK rc))).completed := rfl

/-- The current and the lookahead point after LSTEP (R189). -/
def State.lstepPoints : Point × Point :=
  ladderStep (s.readPoint rd) (s.readPoint ra) (s.readK rb) ((s.readK rc).getLsbD bit.toNat)

theorem exec_lstep :
    exec (.lstep rd ra rb rc bit) s =
      .next ((s.writePoint rd (s.lstepPoints rd ra rb rc bit).1).writePoint ra
        (s.lstepPoints rd ra rb rc bit).2).completed := rfl

theorem exec_smul :
    exec (.smul rd ra rb) s = .next (s.writeK rd (scalarMul (s.readK ra) (s.readK rb))).completed := rfl

/-- R186: with the bit selected, every register reads as the one it is exchanged with did. -/
theorem exec_cswap_readK : ∃ t, exec (.cswap ra rb rc bit) s = .next t ∧
    ∀ q, t.readK q = if (s.readK rc).getLsbD bit.toNat then s.readK (Equiv.swap ra rb q) else s.readK q := by
  refine ⟨_, rfl, fun q => ?_⟩
  simp only [cswapPair_eq, keyBit, completed_readK, readK_writeK]
  by_cases hb : q = rb
  · rw [if_pos hb, hb, Equiv.swap_apply_right]
    split <;> rfl
  by_cases ha : q = ra
  · rw [if_neg hb, if_pos ha, ha, Equiv.swap_apply_left]
    split <;> rfl
  · rw [if_neg hb, if_neg ha, Equiv.swap_apply_of_ne_of_ne ha hb, ite_self]

end Sys2Proof.Machine
end

section
/-! Field arithmetic in ZMod p (40_field.md R140): the operations are ring operations on residues, and a canonical value is
its residue. -/

namespace Sys2Proof.Machine

/-- The residue of a key, in the ring of integers mod p. -/
def residue (a : Key) : ZMod p := (int a : ZMod p)

theorem residue_modp (n : Int) : residue (modp n) = (n : ZMod p) := by
  rw [residue, modp_int, ZMod.intCast_mod]

@[simp] theorem residue_add (a b : Key) : residue (add a b) = residue a + residue b := by
  rw [add, residue_modp, Int.cast_add]
  rfl

@[simp] theorem residue_sub (a b : Key) : residue (sub a b) = residue a - residue b := by
  rw [sub, residue_modp, Int.cast_sub]
  rfl

@[simp] theorem residue_mul (a b : Key) : residue (mul a b) = residue a * residue b := by
  rw [mul, residue_modp, Int.cast_mul]
  rfl

@[simp] theorem residue_sqr (a : Key) : residue (sqr a) = residue a ^ 2 := by
  rw [sqr_eq_mul, residue_mul, pow_two]

@[simp] theorem residue_muls (a : Key) : residue (muls a) = 121665 * residue a := by
  rw [muls, residue_modp, Int.cast_mul, a24, mul_comm]
  rfl

@[simp] theorem residue_zero : residue 0 = 0 := by simp [residue, int]

theorem residue_eq_natCast (a : Key) : residue a = (a.toNat : ZMod p) := Int.cast_natCast _

theorem residue_inv (a : Key) : residue (inv a) = residue a ^ (p - 2) := by
  rw [residue_eq_natCast, residue_eq_natCast, inv_toNat, ZMod.natCast_mod, Nat.cast_pow]

theorem residue_eq_iff {a b : Key} : residue a = residue b ↔ a.toNat % p = b.toNat % p := by
  rw [residue_eq_natCast, residue_eq_natCast, ZMod.natCast_eq_natCast_iff']

theorem eq_of_residue_eq {a b : Key} (ha : a.toNat < p) (hb : b.toNat < p) (h : residue a = residue b) : a = b := by
  rw [residue_eq_iff, Nat.mod_eq_of_lt ha, Nat.mod_eq_of_lt hb] at h
  exact BitVec.eq_of_toNat_eq h

theorem int_eq_of_residue_eq {a : Key} {n : Int} (ha : a.toNat < p) (h : residue a = (n : ZMod p)) :
    int a = n % (2 ^ 255 - 19) := by
  rw [← p_int, ← modp_int]
  exact congrArg int (eq_of_residue_eq ha (modp_lt n) (h.trans (residue_modp n).symm))

end Sys2Proof.Machine
end

section
/-! Doubling and differential addition on residues (41_ladder.md R181, R183, R184). -/

namespace Sys2Proof.Machine

/-- Both coordinates are below p (40_field.md R140). -/
structure Point.Canonical (q : Point) : Prop where
  X : q.X.toNat < p
  Z : q.Z.toNat < p

theorem dbl_canonical (q : Point) : (dbl q).Canonical := ⟨modp_lt _, modp_lt _⟩

theorem dadd_canonical (q r : Point) (x1 : Key) : (dadd q r x1).Canonical := ⟨modp_lt _, modp_lt _⟩

/-- The two points have the same coordinates mod p. -/
structure Point.Congr (q r : Point) : Prop where
  X : residue q.X = residue r.X
  Z : residue q.Z = residue r.Z

theorem Point.Congr.refl (q : Point) : q.Congr q := ⟨rfl, rfl⟩

theorem Point.Canonical.eq_of_congr {q r : Point} (hq : q.Canonical) (hr : r.Canonical) (h : q.Congr r) : q = r := by
  cases q
  cases r
  rw [Point.mk.injEq]
  exact ⟨eq_of_residue_eq hq.X hr.X h.X, eq_of_residue_eq hq.Z hr.Z h.Z⟩

theorem residue_dbl_X (q : Point) :
    residue (dbl q).X = (residue q.X - residue q.Z) ^ 2 * (residue q.X + residue q.Z) ^ 2 := by
  simp [dbl]

/-- R181: o is 4XZ. -/
theorem residue_dbl_Z (q : Point) :
    residue (dbl q).Z = 4 * (residue q.X * residue q.Z) *
      ((residue q.X + residue q.Z) ^ 2 + 121665 * (4 * (residue q.X * residue q.Z))) := by
  simp only [dbl, residue_mul, residue_add, residue_muls, residue_sub, residue_sqr]
  ring

/-- R183's DA + CB. -/
theorem residue_dadd_X (q r : Point) (x1 : Key) :
    residue (dadd q r x1).X =
      ((residue r.X - residue r.Z) * (residue q.X + residue q.Z) +
        (residue r.X + residue r.Z) * (residue q.X - residue q.Z)) ^ 2 := by
  simp [dadd]

/-- R183's DA - CB. -/
theorem residue_dadd_Z (q r : Point) (x1 : Key) :
    residue (dadd q r x1).Z =
      residue x1 * ((residue r.X - residue r.Z) * (residue q.X + residue q.Z) -
        (residue r.X + residue r.Z) * (residue q.X - residue q.Z)) ^ 2 := by
  simp [dadd]

theorem dbl_congr {q q' : Point} (h : q.Congr q') : dbl q = dbl q' := by
  refine (dbl_canonical q).eq_of_congr (dbl_canonical q') ⟨?_, ?_⟩
  · rw [residue_dbl_X, residue_dbl_X, h.X, h.Z]
  · rw [residue_dbl_Z, residue_dbl_Z, h.X, h.Z]

theorem dadd_congr {q q' r r' : Point} {x1 x1' : Key} (hq : q.Congr q') (hr : r.Congr r')
    (hx : residue x1 = residue x1') : dadd q r x1 = dadd q' r' x1' := by
  refine (dadd_canonical q r x1).eq_of_congr (dadd_canonical q' r' x1') ⟨?_, ?_⟩
  · rw [residue_dadd_X, residue_dadd_X, hq.X, hq.Z, hr.X, hr.Z]
  · rw [residue_dadd_Z, residue_dadd_Z, hq.X, hq.Z, hr.X, hr.Z, hx]

/-- R184: exchanging the points exchanges DA and CB, whose sum and squared difference are symmetric. -/
theorem dadd_comm (q r : Point) (x1 : Key) : dadd q r x1 = dadd r q x1 := by
  refine (dadd_canonical q r x1).eq_of_congr (dadd_canonical r q x1) ⟨?_, ?_⟩
  · rw [residue_dadd_X, residue_dadd_X]
    ring
  · rw [residue_dadd_Z, residue_dadd_Z]
    ring

end Sys2Proof.Machine
end

section
/-! The ladder's loop (41_ladder.md R193 to R197): its bound, its bits in order, and what it depends on. -/

namespace Sys2Proof.Machine

theorem ladderStep_eq (cur look : Point) (x1 : Key) (bit : Bool) :
    ladderStep cur look x1 bit = if bit then (dadd look cur x1, dbl look) else (dbl cur, dadd look cur x1) := rfl

/-- R195: `topBit` is the index of the highest set bit. -/
theorem topBit_eq {k : Key} {n : Nat} (hset : k.getLsbD n = true) (habove : ∀ j, n < j → k.getLsbD j = false) :
    topBit k = n := by
  have hle : 2 ^ n ≤ k.toNat := Nat.ge_two_pow_of_testBit hset
  have hlt : k.toNat < 2 ^ (n + 1) := Nat.lt_pow_two_of_testBit _ habove
  have hpos : 0 < 2 ^ n := by positivity
  exact (Nat.log2_eq_iff (by omega)).2 ⟨hle, hlt⟩

/-- R195: the loop takes the bits below its bound, highest first. -/
theorem ladderLoop_eq_foldl (k u : Key) (n : Nat) (pts : Point × Point) :
    ladderLoop k u n pts =
      (List.range n).reverse.foldl (fun q i => ladderStep q.1 q.2 u (k.getLsbD i)) pts := by
  induction n generalizing pts with
  | zero => rfl
  | succ n ih =>
    rw [List.range_succ, List.reverse_append, List.reverse_singleton, List.singleton_append, List.foldl_cons, ← ih]
    rfl

/-- The current point after the loop, whose affine value is SMUL's result (R195, R196). -/
def ladderPoint (k u : Key) : Point := (ladderLoop k u (topBit k) (⟨u, 1⟩, dbl ⟨u, 1⟩)).1

theorem scalarMul_of_ne_zero {k : Key} (h : k.toNat ≠ 0) (u : Key) :
    scalarMul k u = mul (ladderPoint k u).X (inv (ladderPoint k u).Z) := if_neg h

theorem scalarMul_of_eq_zero {k : Key} (h : k.toNat = 0) (u : Key) : scalarMul k u = 0 := if_pos h

/-- R199, R140. -/
theorem scalarMul_lt (k u : Key) : (scalarMul k u).toNat < p := by
  unfold scalarMul
  split
  · decide
  · exact modp_lt _

/-! ### The base counts mod p (R197) -/

theorem ladderStep_congr {cur cur' look look' : Point} {u u' : Key} (hcur : cur.Congr cur') (hlook : look.Congr look')
    (hu : residue u = residue u') (bit : Bool) : ladderStep cur look u bit = ladderStep cur' look' u' bit := by
  rw [ladderStep_eq, ladderStep_eq, dadd_congr hlook hcur hu, dbl_congr hcur, dbl_congr hlook]

theorem ladderLoop_congr (k : Key) {u u' : Key} (hu : residue u = residue u') (n : Nat) {pts pts' : Point × Point}
    (hcur : pts.1.Congr pts'.1) (hlook : pts.2.Congr pts'.2) :
    (ladderLoop k u n pts).1.Congr (ladderLoop k u' n pts').1 := by
  induction n generalizing pts pts' with
  | zero => exact hcur
  | succ n ih =>
    have hstep := ladderStep_congr hcur hlook hu (keyBit k n)
    exact ih (by rw [hstep]; exact .refl _) (by rw [hstep]; exact .refl _)

theorem ladderPoint_congr (k : Key) {u u' : Key} (hu : residue u = residue u') :
    (ladderPoint k u).Congr (ladderPoint k u') := by
  have hstart : (⟨u, 1⟩ : Point).Congr ⟨u', 1⟩ := ⟨hu, rfl⟩
  exact ladderLoop_congr k hu _ hstart (by rw [dbl_congr hstart]; exact .refl _)

theorem scalarMul_congr (k : Key) {u u' : Key} (hu : residue u = residue u') : scalarMul k u = scalarMul k u' := by
  by_cases hk : k.toNat = 0
  · rw [scalarMul_of_eq_zero hk, scalarMul_of_eq_zero hk]
  · obtain ⟨hX, hZ⟩ := ladderPoint_congr k hu
    refine eq_of_residue_eq (scalarMul_lt k u) (scalarMul_lt k u') ?_
    simp only [scalarMul_of_ne_zero hk, residue_mul, residue_inv, hX, hZ]

/-! ### The base 0 and the scalar 1 (R193) -/

/-- One coordinate is 0 mod p: up to scale the point is (0 : 1), (1 : 0) or (0 : 0). -/
def Point.Degenerate (q : Point) : Prop := residue q.X * residue q.Z = 0

theorem Point.Degenerate.dbl {q : Point} (h : q.Degenerate) : (dbl q).Degenerate := by
  rw [Degenerate] at h ⊢
  rw [residue_dbl_Z, h]
  ring

theorem degenerate_dadd_zero (q r : Point) : (dadd q r 0).Degenerate := by
  rw [Point.Degenerate, residue_dadd_Z, residue_zero, zero_mul, mul_zero]

theorem ladderLoop_zero_degenerate (k : Key) (n : Nat) {pts : Point × Point} (hcur : pts.1.Degenerate)
    (hlook : pts.2.Degenerate) : (ladderLoop k 0 n pts).1.Degenerate := by
  induction n generalizing pts with
  | zero => exact hcur
  | succ n ih =>
    rw [ladderLoop, ladderStep_eq]
    split
    · exact ih (degenerate_dadd_zero _ _) hlook.dbl
    · exact ih hcur.dbl (degenerate_dadd_zero _ _)

theorem ladderPoint_zero_degenerate (k : Key) : (ladderPoint k 0).Degenerate := by
  have hstart : (⟨0, 1⟩ : Point).Degenerate := by rw [Point.Degenerate, residue_zero, zero_mul]
  exact ladderLoop_zero_degenerate k _ hstart hstart.dbl

/-- R196: X · Z^(p-2) has the factor X · Z. -/
theorem Point.Degenerate.mul_inv {q : Point} (h : q.Degenerate) : mul q.X (inv q.Z) = 0 := by
  rw [Degenerate] at h
  have hexp : p - 2 = p - 3 + 1 := by decide
  refine eq_of_residue_eq (modp_lt _) (by decide) ?_
  rw [residue_mul, residue_inv, hexp, pow_succ', ← mul_assoc, h, zero_mul, residue_zero]

theorem scalarMul_base_zero (k : Key) : scalarMul k 0 = 0 := by
  by_cases hk : k.toNat = 0
  · exact scalarMul_of_eq_zero hk 0
  · rw [scalarMul_of_ne_zero hk]
    exact (ladderPoint_zero_degenerate k).mul_inv

/-- R193: the scalar 1 has no bit below its highest, so the loop does nothing. -/
theorem scalarMul_one (u : Key) : (scalarMul 1 u).toNat = u.toNat % p := by
  have h : scalarMul 1 u = mul u (inv 1) := rfl
  rw [h, mul_toNat, inv_toNat]
  simp

end Sys2Proof.Machine
end

section
/-! Settled: the ladder commands (41_ladder.md R181 to R190). -/

namespace Sys2Proof.Machine

/-- Settles O20: the pair written is `dbl` of the operand, which is canonical and has the stated residues. -/
theorem pdblDoublesProjectively : Obligations.PdblDoublesProjectively := by
  intro s rd ra hd ha
  have hexec := exec_pdbl s rd ra
  refine ⟨decode_cmdWord (by decide) rfl (by simp [Instr.wellFormed, isPair_of_even, hd, ha]), _, hexec,
    .of_exec hexec rfl rfl rfl, ?_⟩
  obtain ⟨hX, hZ⟩ := dbl_canonical (s.readPoint ra)
  rw [readK_writePoint_completed_X, readK_writePoint_completed_Z]
  refine ⟨int_eq_of_residue_eq hX ?_, int_eq_of_residue_eq hZ ?_⟩
  · rw [residue_dbl_X]
    push_cast
    rfl
  · rw [residue_dbl_Z]
    push_cast
    simp only [residue, State.readPoint, pairZ]
    ring

/-- Settles O21: the pair written is `dadd` of the operands, which is canonical and has the stated residues. -/
theorem pdaddAddsDifferentially : Obligations.PdaddAddsDifferentially := by
  intro s rd ra rb rc hd ha hb
  have hexec := exec_pdadd s rd ra rb rc
  refine ⟨decode_cmdWord (by decide) rfl (by simp [Instr.wellFormed, isPair_of_even, hd, ha, hb]), _, hexec,
    .of_exec hexec rfl rfl rfl, ?_⟩
  obtain ⟨hX, hZ⟩ := dadd_canonical (s.readPoint ra) (s.readPoint rb) (s.readK rc)
  rw [readK_writePoint_completed_X, readK_writePoint_completed_Z]
  refine ⟨int_eq_of_residue_eq hX ?_, int_eq_of_residue_eq hZ ?_⟩
  · rw [residue_dadd_X]
    push_cast
    rfl
  · rw [residue_dadd_Z]
    push_cast
    rfl

/-- Settles O22: the register each of the two is exchanged with is the other. -/
theorem cswapExchangesOnSelectedBit : Obligations.CswapExchangesOnSelectedBit := by
  intro s ra rb rc bit
  obtain ⟨t, hexec, hread⟩ := exec_cswap_readK s ra rb rc bit
  refine ⟨decode_cmdWord (by decide) rfl rfl, t, hexec, .of_exec hexec rfl rfl rfl, ?_⟩
  rw [hread, hread, Equiv.swap_apply_left, Equiv.swap_apply_right]
  split <;> exact ⟨rfl, rfl⟩

/-- Settles O23: the exchange is its own inverse, and it moves no selector outside the two registers. -/
theorem cswapTwiceRestores : Obligations.CswapTwiceRestores := by
  intro s ra rb rc bit hca hcb
  obtain ⟨t, ht, hread⟩ := exec_cswap_readK s ra rb rc bit
  obtain ⟨u, hu, hread'⟩ := exec_cswap_readK t ra rb rc bit
  have hsel : t.readK rc = s.readK rc := by rw [hread, Equiv.swap_apply_of_ne_of_ne hca hcb, ite_self]
  have hframe : WroteOnlyKeys s u [ra, rb] := .trans (.of_exec ht rfl rfl rfl) (.of_exec hu rfl rfl rfl)
  refine ⟨u, (execAll_cons ht).trans (execAll_cons hu), hframe.of_keysKept fun q _ => ?_⟩
  rw [hread', hsel, hread, hread, Equiv.swap_apply_self]
  split <;> rfl

/-- Settles O24: the pairs are disjoint, so each reads as the point written to it, which is that of the selected branch;
with RD = RA the command is not well-formed. -/
theorem lstepConsumesOneScalarBit : Obligations.LstepConsumesOneScalarBit := by
  refine ⟨fun s rd ra rb rc bit hd ha hne => ?_, fun rd rb rc bit => ?_⟩
  · have hrd := isPair_of_even hd
    have hra := isPair_of_even ha
    have hexec := exec_lstep s rd ra rb rc bit
    refine ⟨decode_cmdWord (by decide) rfl (by simp [Instr.wellFormed, hrd, hra, hne]), _, hexec,
      .of_exec hexec rfl rfl rfl, ?_⟩
    generalize hpts : s.lstepPoints rd ra rb rc bit = pts
    have hcur : ((s.writePoint rd pts.1).writePoint ra pts.2).readPoint rd = pts.1 := by
      rw [readPoint_writePoint_ne _ _ hra hrd hne, readPoint_writePoint_same]
    have hlook : ((s.writePoint rd pts.1).writePoint ra pts.2).readPoint ra = pts.2 :=
      readPoint_writePoint_same _ ra _
    rw [State.lstepPoints, ladderStep_eq] at hpts
    cases hbit : (s.readK rc).getLsbD bit.toNat
    all_goals
      rw [hbit] at hpts
      subst hpts
      exact ⟨hcur, hlook⟩
  · rw [cmdWord_eq (by decide)]
    exact (decode_encode (.lstep rd rd rb rc bit)).trans (if_neg (by simp [Instr.wellFormed]))

/-- Settles O25: the value written is `scalarMul` of the operands, whose loop is the fold. -/
theorem smulRunsTheLadder : Obligations.SmulRunsTheLadder := by
  intro s rd ra rb
  have hexec := exec_smul s rd ra rb
  refine ⟨decode_cmdWord (by decide) rfl rfl, _, hexec, .of_exec hexec rfl rfl rfl, ?_⟩
  rw [readK_writeK_completed]
  refine ⟨fun hk => scalarMul_of_eq_zero (by rw [hk]; rfl) _, fun n hset habove => ?_⟩
  have hk : (s.readK ra).toNat ≠ 0 := fun h0 => by simp [BitVec.getLsbD, h0] at hset
  rw [scalarMul_of_ne_zero hk, ladderPoint, topBit_eq hset habove, ladderLoop_eq_foldl]
  rfl

/-- Settles O26: `dadd` is symmetric, and PDADD writes it. -/
theorem differentialAddIsSymmetric : Obligations.DifferentialAddIsSymmetric := by
  refine ⟨dadd_comm, fun s rd ra rb rc => ⟨_, exec_pdadd s rd ra rb rc, ?_⟩⟩
  rw [exec_pdadd, dadd_comm]

/-- Settles O27, for each value of the bit; where it is 1 the two forms add the same points in opposite orders. -/
theorem uniformStepEqualsBranchStep : Obligations.UniformStepEqualsBranchStep := by
  intro cur look x1 bit
  simp only [ladderStepUniform, ladderStep_eq, cswapPoints_eq]
  cases bit with
  | false => rfl
  | true => exact Prod.ext (dadd_comm cur look x1) rfl

/-- Settles O29: SMUL writes `scalarMul` of the operands. -/
theorem smulOnDegenerateOperands : Obligations.SmulOnDegenerateOperands := by
  intro s rd ra rb
  refine ⟨_, exec_smul s rd ra rb, ?_⟩
  rw [readK_writeK_completed]
  refine ⟨scalarMul_lt _ _, fun hk => ?_, fun hk => ?_, fun hu => ?_⟩
  · exact scalarMul_of_eq_zero (by rw [hk]; rfl) _
  · rw [hk, scalarMul_one]
  · rw [hu, scalarMul_base_zero]

/-- Settles O30: a base counts by its residue. -/
theorem smulDependsOnBaseModP : Obligations.SmulDependsOnBaseModP := fun k _ _ h =>
  scalarMul_congr k (residue_eq_iff.2 h)

end Sys2Proof.Machine
end

section
/-! PDBL as a sequence of field commands (41_ladder.md R182): the squares of the sum and the difference, then the two
coordinates from them. -/

namespace Sys2Proof.Machine

theorem mul_comm_key (a b : Key) : mul a b = mul b a := by rw [mul, mul, mul_comm]

theorem add_comm_key (a b : Key) : add a b = add b a := by rw [add, add, add_comm]

section
variable {k6 k7 : KReg} (h67 : k6 ≠ k7)
include h67

/-- R182's first four commands: k6 <- m, k7 <- n. -/
theorem execAll_squares (s : State) {ka kb : KReg} (h6a : k6 ≠ ka) (h6b : k6 ≠ kb) (is : List Instr) :
    ∃ t, execAll (.fadd k6 ka kb :: .fsqr k6 k6 :: .fsub k7 ka kb :: .fsqr k7 k7 :: is) s = execAll is t ∧
      t.readK k6 = sqr (add (s.readK ka) (s.readK kb)) ∧ t.readK k7 = sqr (sub (s.readK ka) (s.readK kb)) := by
  refine ⟨_, (execAll_cons (exec_fadd ..)).trans <| (execAll_cons (exec_fsqr ..)).trans <|
    (execAll_cons (exec_fsub ..)).trans <| execAll_cons (exec_fsqr ..), ?_, ?_⟩
  · simp [readK_writeK, h67]
  · simp [readK_writeK, h6a.symm, h6b.symm]

/-- R182's last five commands: kd <- n·m, k7 <- o, kz <- (a24·o + m)·o. -/
theorem execAll_coordinates (s : State) {kd kz : KReg} (hdz : kd ≠ kz) (h6d : k6 ≠ kd) (h6z : k6 ≠ kz) (h7d : k7 ≠ kd)
    (h7z : k7 ≠ kz) :
    ∃ t, execAll [.fmul kd k7 k6, .fsub k7 k6 k7, .fmuls kz k7, .fadd kz kz k6, .fmul kz kz k7] s = .next t ∧
      t.readK kd = mul (s.readK k7) (s.readK k6) ∧
      t.readK kz = mul (add (muls (sub (s.readK k6) (s.readK k7))) (s.readK k6)) (sub (s.readK k6) (s.readK k7)) := by
  refine ⟨_, (execAll_cons (exec_fmul ..)).trans <| (execAll_cons (exec_fsub ..)).trans <|
    (execAll_cons (exec_fmuls ..)).trans <| (execAll_cons (exec_fadd ..)).trans <| execAll_cons (exec_fmul ..), ?_, ?_⟩
  · simp [readK_writeK, hdz, h7d.symm]
  · simp [readK_writeK, h67, h6d, h6z, h7d, h7z]

end

/-- Settles O28: with m and n in the scratch registers the last commands compute `dbl`'s coordinates, up to the order of
two factors and of two summands. -/
theorem pdblEqualsFieldSequence : Obligations.PdblEqualsFieldSequence := by
  intro s kd ka k6 k7 _ _ h67 h6 h7
  simp only [List.mem_cons, List.not_mem_nil, or_false, not_or] at h6 h7
  obtain ⟨h6d, h6z, h6a, h6b⟩ := h6
  obtain ⟨h7d, h7z, -, -⟩ := h7
  have hne : kd ≠ kd + 1 := (pairZ_ne kd).symm
  obtain ⟨u, hu, hm, hn⟩ := execAll_squares h67 s h6a h6b
    [.fmul kd k7 k6, .fsub k7 k6 k7, .fmuls (kd + 1) k7, .fadd (kd + 1) (kd + 1) k6, .fmul (kd + 1) (kd + 1) k7]
  obtain ⟨t, ht, hX, hZ⟩ := execAll_coordinates h67 u hne h6d h6z h7d h7z
  refine ⟨_, t, exec_pdbl s kd ka, hu.trans ht, ?_, ?_⟩
  · rw [readK_writePoint_completed_X, hX, hm, hn]
    rfl
  · rw [readK_writePoint_completed_Z, hZ, mul_comm_key, add_comm_key (muls _), hm, hn]
    rfl

end Sys2Proof.Machine
end

section
/-! The frame of a command that writes no key register, and the completion of each command of 42_compare_validate.md. -/

namespace Sys2Proof.Machine

/-! ### The frame -/

section
variable {table : UnsafeTable} {i : Instr} {s t : State} (h : execOver table i s = .next t)
include h

theorem Completed.of_execOver : Completed s t := by
  obtain ⟨K, data, flag, cmpr, rfl⟩ := execOver_next h
  exact ⟨rfl, rfl, rfl, rfl, rfl, rfl, rfl, rfl, rfl⟩

/-- A completion that writes neither key registers nor DATA writes at most FLAG and CMPR. -/
theorem WroteOnlyFlags.of_execOver (hkeys : i.keysWritten = []) (hdata : i.writesData = false) :
    WroteOnlyFlags s t where
  toCompleted := .of_execOver h
  keys := hkeys ▸ execOver_keysKept h
  data := execOver_data_kept h hdata

/-- A completion that writes neither key registers nor DATA nor CMPR writes at most FLAG. -/
theorem WroteOnlyFlag.of_execOver (hkeys : i.keysWritten = []) (hdata : i.writesData = false)
    (hcmpr : i.writesCmpr = false) : WroteOnlyFlag s t where
  toCompleted := .of_execOver h
  keys := hkeys ▸ execOver_keysKept h
  data := execOver_data_kept h hdata
  cmpr := execOver_cmpr_kept h hcmpr

end

/-! ### The completions -/

section
variable (table : UnsafeTable) (s : State) (ra rb : KReg)

theorem execOver_iszero :
    execOver table (.iszero ra) s = .next (s.setFlag (isZero (s.readK ra))).completed := rfl

theorem execOver_cmp :
    execOver table (.cmp ra rb) s =
      .next ((s.setCmpr (compareCode (s.readK ra) (s.readK rb))).setFlag
        (isEqual (s.readK ra) (s.readK rb))).completed := rfl

theorem execOver_kvalid :
    execOver table (.kvalid ra) s = .next (s.setFlag (isSafe table.values (s.readK ra))).completed := rfl

end

end Sys2Proof.Machine
end

section
/-! The verdicts of 42_compare_validate.md (R230, R231, R234) as facts about the values compared. -/

namespace Sys2Proof.Machine

theorem isZero_iff {x : Key} : isZero x = true ↔ x.toNat = 0 := decide_eq_true_iff

/-! ### The three-way comparison (R231) -/

variable {x y : Key}

theorem isEqual_of_eq (h : x.toNat = y.toNat) : isEqual x y = true := decide_eq_true h

theorem isEqual_of_ne (h : x.toNat ≠ y.toNat) : isEqual x y = false := decide_eq_false h

theorem compareCode_of_eq (h : x.toNat = y.toNat) : compareCode x y = 0b00 := if_pos h

theorem compareCode_of_lt (h : x.toNat < y.toNat) : compareCode x y = 0b01 :=
  (if_neg h.ne).trans (if_pos h)

theorem compareCode_of_gt (h : y.toNat < x.toNat) : compareCode x y = 0b10 :=
  (if_neg h.ne').trans (if_neg h.not_gt)

/-! ### The validator (R234) -/

variable {table : List Key}

theorem isSafe_eq_false_iff : isSafe table x = false ↔ x ∈ table := by
  simp [isSafe, BitVec.toNat_inj]

theorem isSafe_eq_true_iff : isSafe table x = true ↔ x ∉ table := by
  rw [← isSafe_eq_false_iff, Bool.not_eq_false]

theorem kvalid_rejects_iff_mem (table : UnsafeTable) (s : State) (ra : KReg) :
    ∃ t, execOver table (.kvalid ra) s = .next t ∧ WroteOnlyFlag s t ∧
      (t.flag = false ↔ s.readK ra ∈ table.values) := by
  have hexec := execOver_kvalid table s ra
  exact ⟨_, hexec, .of_execOver hexec rfl rfl rfl, isSafe_eq_false_iff⟩

theorem UnsafeTable.mem_values_iff (table : UnsafeTable) {x : Key} :
    x ∈ table.values ↔ ∃ j, j < 12 ∧ table.values[j]? = some x := by
  rw [List.mem_iff_getElem?]
  refine exists_congr fun j => (and_iff_right_of_imp fun h => ?_).symm
  obtain ⟨hj, -⟩ := List.getElem?_eq_some_iff.1 h
  exact table.length_eq ▸ hj

/-! ### The default table (R232) -/

theorem mem_unsafeTable_iff {x : Key} :
    x ∈ unsafeTable ↔ x.toNat ∈
      [0, 1, c8a, c8b, p - 1, p, p + 1, p + c8a, p + c8b, 2 * p - 1, 2 * p, 2 * p + 1] := by
  have hvalues : unsafeTable.map BitVec.toNat =
      [0, 1, c8a, c8b, p - 1, p, p + 1, p + c8a, p + c8b, 2 * p - 1, 2 * p, 2 * p + 1] := by decide
  rw [← hvalues, List.mem_map_of_injective fun _ _ => BitVec.eq_of_toNat_eq]

/-- A residue has at most three representatives among the 256-bit values, 2^256 being below 3p. -/
theorem mod_p_eq_iff {n r : Nat} (hn : n < 2 ^ 256) (hr : r < p) :
    n % p = r ↔ n = r ∨ n = p + r ∨ n = 2 * p + r := by
  rw [p_eq] at hr ⊢
  omega

end Sys2Proof.Machine
end

section
/-! Settled: the zero test, the comparison and the validator (42_compare_validate.md R230 to R234). -/

namespace Sys2Proof.Machine

/-- Settles O31: FLAG is `isZero` of the operand. -/
theorem iszeroTestsRawZero : Obligations.IszeroTestsRawZero := by
  intro s ra
  have hexec := execOver_iszero defaultTable s ra
  exact ⟨decode_cmdWord (by decide) rfl rfl, _, hexec, .of_execOver hexec rfl rfl rfl, isZero_iff⟩

/-- Settles O32, for each order of the two values. -/
theorem cmpComparesRawValues : Obligations.CmpComparesRawValues := by
  intro s ra rb
  have hexec := execOver_cmp defaultTable s ra rb
  exact ⟨decode_cmdWord (by decide) rfl rfl, _, hexec, .of_execOver hexec rfl rfl,
    fun heq => ⟨compareCode_of_eq heq, isEqual_of_eq heq⟩,
    fun hlt => ⟨compareCode_of_lt hlt, isEqual_of_ne hlt.ne⟩,
    fun hgt => ⟨compareCode_of_gt hgt, isEqual_of_ne hgt.ne'⟩⟩

/-- Settles O33: FLAG is 0 exactly for the members of the table, whose default lists the twelve values. -/
theorem kvalidRejectsExactlyTheTable : Obligations.KvalidRejectsExactlyTheTable := by
  intro s ra
  obtain ⟨t, hexec, hframe, hflag⟩ := kvalid_rejects_iff_mem defaultTable s ra
  refine ⟨decode_cmdWord (by decide) rfl rfl, t, hexec, hframe, hflag.trans mem_unsafeTable_iff, fun table => ?_⟩
  simpa only [table.mem_values_iff] using kvalid_rejects_iff_mem table s ra

/-- Settles O35: the twelve values are the representatives below 2^256 of the five residues. -/
theorem kvalidRejectsSmallOrderResidues : Obligations.KvalidRejectsSmallOrderResidues := by
  intro x
  have hx : x.toNat < 2 ^ 256 := x.isLt
  rw [isSafe_eq_false_iff, mem_unsafeTable_iff]
  simp only [List.mem_cons, List.not_mem_nil, or_false, mod_p_eq_iff hx (show 0 < p by decide),
    mod_p_eq_iff hx (show 1 < p by decide), mod_p_eq_iff hx (show p - 1 < p by decide),
    mod_p_eq_iff hx (show c8a < p by decide), mod_p_eq_iff hx (show c8b < p by decide)]
  rw [p, c8a, c8b]
  omega

end Sys2Proof.Machine
end

section
/-! The reference binary search (42_compare_validate.md R236): every entry equal to the operand stays between the
bounds, whose distance each comparison at least halves. -/

namespace Sys2Proof.Machine

/-- Every entry equal to x lies between lo (inclusive) and hi (exclusive). -/
def EqualEntriesWithin (table : List Key) (x : Key) (lo hi : Nat) : Prop :=
  ∀ j, table[j]? = some x → lo ≤ j ∧ j < hi

/-! ### One comparison of the search -/

theorem searchTable_of_empty (table : List Key) (x : Key) (fuel : Nat) {lo hi : Int} (h : hi < lo) (n : Nat) :
    searchTable table x fuel lo hi n = some (true, n) := by
  cases fuel <;> exact if_neg h.not_ge

theorem searchTable_of_nonempty {table : List Key} {lo hi : Int} {mid : Nat} {c : Key} (h : lo ≤ hi)
    (hmid : (lo + hi) / 2 = mid) (hc : table[mid]? = some c) (x : Key) (fuel n : Nat) :
    searchTable table x (fuel + 1) lo hi n =
      if x.toNat = c.toNat then some (false, n + 1)
      else if x.toNat < c.toNat then searchTable table x fuel lo (mid - 1) (n + 1)
      else searchTable table x fuel (mid + 1) hi (n + 1) := by
  simp only [searchTable, if_pos h, hmid, Int.toNat_natCast, hc]

/-! ### What a comparison says about the entries equal to x -/

section
variable {table : List Key} {x c : Key} {lo hi mid : Nat}

theorem EqualEntriesWithin.search_of_empty (h : EqualEntriesWithin table x lo hi) (hempty : hi ≤ lo) (fuel n : Nat) :
    searchTable table x fuel lo (hi - 1) n = some (isSafe table x, n) := by
  have hsafe : isSafe table x = true := isSafe_eq_true_iff.2 fun hmem => by
    obtain ⟨j, hj⟩ := List.mem_iff_getElem?.1 hmem
    have := h j hj
    omega
  rw [searchTable_of_empty _ _ _ (by omega), hsafe]

theorem lt_of_getElem?_toNat_lt (hasc : table.Pairwise (fun a b => a.toNat < b.toNat)) {i j : Nat} {a b : Key}
    (ha : table[i]? = some a) (hb : table[j]? = some b) (hab : a.toNat < b.toNat) : i < j := by
  obtain ⟨hi, rfl⟩ := List.getElem?_eq_some_iff.1 ha
  obtain ⟨hj, rfl⟩ := List.getElem?_eq_some_iff.1 hb
  rcases lt_trichotomy i j with hlt | rfl | hgt
  · exact hlt
  · exact absurd hab (lt_irrefl _)
  · exact absurd hab (List.pairwise_iff_getElem.1 hasc j i hj hi hgt).not_gt

variable (h : EqualEntriesWithin table x lo hi) (hasc : table.Pairwise (fun a b => a.toNat < b.toNat))
  (hc : table[mid]? = some c)
include h hasc hc

theorem EqualEntriesWithin.below (hlt : x.toNat < c.toNat) : EqualEntriesWithin table x lo mid := fun j hj =>
  ⟨(h j hj).1, lt_of_getElem?_toNat_lt hasc hj hc hlt⟩

theorem EqualEntriesWithin.above (hgt : c.toNat < x.toNat) : EqualEntriesWithin table x (mid + 1) hi := fun j hj =>
  ⟨lt_of_getElem?_toNat_lt hasc hc hj hgt, (h j hj).2⟩

end

/-! ### The search -/

/-- A search between bounds less than 2^fuel apart reaches the table's verdict in at most `fuel` comparisons. -/
theorem searchTable_eq_isSafe {table : List Key} {x : Key} (hasc : table.Pairwise (fun a b => a.toNat < b.toNat))
    (fuel : Nat) {lo hi : Nat} (hlen : hi ≤ table.length) (hfuel : hi < lo + 2 ^ fuel)
    (hwithin : EqualEntriesWithin table x lo hi) (n : Nat) :
    ∃ m, m ≤ fuel ∧ searchTable table x fuel lo (hi - 1) n = some (isSafe table x, n + m) := by
  induction fuel generalizing lo hi n with
  | zero => exact ⟨0, le_rfl, hwithin.search_of_empty (by omega) 0 n⟩
  | succ fuel ih =>
    by_cases hempty : hi ≤ lo
    · exact ⟨0, Nat.zero_le _, hwithin.search_of_empty hempty _ n⟩
    obtain ⟨mid, hmid⟩ : ∃ mid : Nat, mid = (lo + hi - 1) / 2 := ⟨_, rfl⟩
    have hc : table[mid]? = some table[mid] := List.getElem?_eq_getElem (by omega)
    generalize table[mid] = c at hc
    rw [pow_succ] at hfuel
    rw [searchTable_of_nonempty (by omega) (by omega) hc]
    rcases lt_trichotomy x.toNat c.toNat with hlt | heq | hgt
    · obtain ⟨m, hm, hsearch⟩ := ih (by omega) (by omega) (hwithin.below hasc hc hlt) (n + 1)
      rw [if_neg hlt.ne, if_pos hlt, hsearch]
      exact ⟨1 + m, by omega, by rw [Nat.add_assoc]⟩
    · have hunsafe : isSafe table x = false :=
        isSafe_eq_false_iff.2 (BitVec.eq_of_toNat_eq heq ▸ List.mem_of_getElem? hc)
      exact ⟨1, by omega, by rw [if_pos heq, hunsafe]⟩
    · obtain ⟨m, hm, hsearch⟩ := ih hlen (by omega) (hwithin.above hasc hc hgt) (n + 1)
      rw [Nat.cast_succ] at hsearch
      rw [if_neg hgt.ne', if_neg hgt.not_gt, hsearch]
      exact ⟨1 + m, by omega, by rw [Nat.add_assoc]⟩

/-- Settles O36: twelve entries are fewer than 2^4. -/
theorem binarySearchReachesVerdict : Obligations.BinarySearchReachesVerdict := by
  intro table x hlen hasc
  have hwithin : EqualEntriesWithin table x 0 12 := fun j hj => by
    obtain ⟨hj, -⟩ := List.getElem?_eq_some_iff.1 hj
    omega
  obtain ⟨m, hm, hsearch⟩ := searchTable_eq_isSafe hasc 4 hlen.ge (by decide) hwithin 0
  exact ⟨m, hm, by simpa [searchVerdict] using hsearch⟩

end Sys2Proof.Machine
end

section
/-! The register transfers and the accessors (43_register_access.md): the completion of each, the frame of a completion
that writes DATA, the words refused for their index, and the bits and units of a key (R264). -/

namespace Sys2Proof.Machine

/-! ### The completions -/

section
variable (table : UnsafeTable) (s : State) (rd ra : KReg) (imm : BitVec 8)

theorem execOver_nop : execOver table .nop s = .next s.completed := rfl

theorem execOver_mov : execOver table (.mov rd ra) s = .next (s.writeK rd (s.readK ra)).completed := rfl

theorem execOver_ldi : execOver table (.ldi rd imm) s = .next (s.writeK rd (imm.setWidth 256)).completed := rfl

theorem execOver_getbit :
    execOver table (.getbit ra imm) s =
      .next ((s.setFlag (keyBit (s.readK ra) imm.toNat)).setData
        ((BitVec.ofBool (keyBit (s.readK ra) imm.toNat)).setWidth 32)).completed := rfl

theorem execOver_setbit :
    execOver table (.setbit rd imm) s =
      .next (s.writeK rd (setKeyBit (s.readK rd) imm.toNat s.dataBit)).completed := rfl

theorem execOver_getbyte :
    execOver table (.getbyte ra imm) s =
      .next (s.setData ((keyByte (s.readK ra) imm.toNat).setWidth 32)).completed := rfl

theorem execOver_setbyte :
    execOver table (.setbyte rd imm) s =
      .next (s.writeK rd (setKeyByte (s.readK rd) imm.toNat s.dataByte)).completed := rfl

theorem execOver_getword :
    execOver table (.getword ra imm) s = .next (s.setData (keyWord (s.readK ra) imm.toNat)).completed := rfl

theorem execOver_setword :
    execOver table (.setword rd imm) s =
      .next (s.writeK rd (setKeyWord (s.readK rd) imm.toNat s.data)).completed := rfl

end

/-! ### The frame of a completion that writes DATA -/

section
variable {table : UnsafeTable} {i : Instr} {s t : State} (h : execOver table i s = .next t)
include h

/-- A completion that writes neither key registers nor CMPR writes at most FLAG and DATA. -/
theorem WroteOnlyFlagData.of_execOver (hkeys : i.keysWritten = []) (hcmpr : i.writesCmpr = false) :
    WroteOnlyFlagData s t where
  toCompleted := .of_execOver h
  keys := hkeys ▸ execOver_keysKept h
  cmpr := execOver_cmpr_kept h hcmpr

/-- A completion that writes neither key registers nor FLAG nor CMPR writes at most DATA. -/
theorem WroteOnlyData.of_execOver (hkeys : i.keysWritten = []) (hflag : i.writesFlag = false)
    (hcmpr : i.writesCmpr = false) : WroteOnlyData s t where
  toCompleted := .of_execOver h
  keys := hkeys ▸ execOver_keysKept h
  flag := execOver_flag_kept h hflag
  cmpr := execOver_cmpr_kept h hcmpr

end

/-! ### Refusal at issue (30_encoding.md R107) -/

/-- The word an ill-formed command packs is refused for its operands, with the word written as a number. -/
theorem decode_cmdWord_illopnd {opc : Nat} {rd ra rb rc : KReg} {imm : BitVec 8} {i : Instr} (hopc : opc < 256)
    (he : encode i = packWord (BitVec.ofNat 8 opc) rd ra rb rc imm) (hw : i.wellFormed = false) :
    decode (cmdWord opc rd ra rb rc imm) = .illopnd := by
  rw [cmdWord_eq hopc, ← he, decode_encode, hw, if_neg Bool.false_ne_true]

/-! ### The bits of a key after a field is replaced (R266, R268, R270) -/

section
variable (x : Key) {j : Nat} (hj : j < 256)
include hj

theorem getLsbD_setKeyBit (i : Nat) (v : Bool) :
    (setKeyBit x i v).getLsbD j = if j = i then v else x.getLsbD j := by
  rw [setKeyBit, getLsbD_setField x i _ j hj]
  by_cases h : j = i
  · simp [h]
  · rw [if_neg (by omega), if_neg h]

theorem getLsbD_setKeyByte (b : Nat) (v : BitVec 8) :
    (setKeyByte x b v).getLsbD j =
      if 8 * b ≤ j ∧ j ≤ 8 * b + 7 then v.getLsbD (j - 8 * b) else x.getLsbD j := by
  rw [setKeyByte, getLsbD_setField x (8 * b) v j hj]
  exact if_congr (and_congr_right' Nat.lt_succ_iff) rfl rfl

theorem getLsbD_setKeyWord (w : Nat) (v : Word) :
    (setKeyWord x w v).getLsbD j =
      if 32 * w ≤ j ∧ j ≤ 32 * w + 31 then v.getLsbD (j - 32 * w) else x.getLsbD j := by
  rw [setKeyWord, getLsbD_setField x (32 * w) v j hj]
  exact if_congr (and_congr_right' Nat.lt_succ_iff) rfl rfl

end

theorem getLsbD_dataByte (s : State) {k : Nat} (hk : k < 8) : s.dataByte.getLsbD k = s.data.getLsbD k := by
  simp [State.dataByte, hk]

/-! ### The units as numbers, and as parts of one another (R264) -/

theorem keyBit_eq_decide (x : Key) (i : Nat) : keyBit x i = decide (x.toNat / 2 ^ i % 2 = 1) :=
  Nat.testBit_eq_decide_div_mod_eq

theorem toNat_keyBit (x : Key) (i : Nat) : (keyBit x i).toNat = x.toNat / 2 ^ i % 2 :=
  Nat.toNat_testBit _ _

theorem getLsbD_keyByte (x : Key) (b : Nat) {k : Nat} (hk : k < 8) :
    (keyByte x b).getLsbD k = x.getLsbD (8 * b + k) := by
  simp [keyByte, hk]

theorem getLsbD_keyWord (x : Key) (w : Nat) {k : Nat} (hk : k < 32) :
    (keyWord x w).getLsbD k = x.getLsbD (32 * w + k) := by
  simp [keyWord, hk]

theorem keyByte_eq_extract_keyWord (x : Key) (b : Nat) :
    keyByte x b = (keyWord x (b / 4)).extractLsb' (8 * (b % 4)) 8 := by
  apply BitVec.eq_of_getLsbD_eq
  intro k hk
  have hindex : 32 * (b / 4) + (8 * (b % 4) + k) = 8 * b + k := by omega
  rw [getLsbD_keyByte x b hk, BitVec.getLsbD_extractLsb', getLsbD_keyWord x _ (by omega), hindex]
  simp [hk]

theorem keyBit_eq_getLsbD_keyByte (x : Key) (i : Nat) : keyBit x i = (keyByte x (i / 8)).getLsbD (i % 8) := by
  rw [getLsbD_keyByte x _ (Nat.mod_lt _ (by decide)), Nat.div_add_mod, keyBit]

/-! ### The constant ROM (10_state.md R47, 42_compare_validate.md R232) -/

theorem constRomOver_default_toNat :
    (constRomOver defaultTable).map BitVec.toNat =
      [2 ^ 255 - 19, 121665, 9, 0, 1, c8a, c8b, p - 1, p, p + 1, p + c8a, p + c8b, 2 * p - 1, 2 * p, 2 * p + 1] := by
  decide

theorem constRomOver_zero (table : UnsafeTable) : (constRomOver table)[0]? = some (BitVec.ofNat 256 p) := rfl

theorem constRomOver_one (table : UnsafeTable) : (constRomOver table)[1]? = some (BitVec.ofNat 256 a24) := rfl

theorem constRomOver_two (table : UnsafeTable) : (constRomOver table)[2]? = some 9 := rfl

theorem constRomOver_add_three (table : UnsafeTable) (j : Nat) :
    (constRomOver table)[3 + j]? = table.values[j]? := by
  rw [Nat.add_comm]
  rfl

/-- LDC of an index the ROM has loads the entry and writes nothing else, whatever the table. -/
theorem ldc_loads_entry (table : UnsafeTable) (s : State) (rd : KReg) {idx : BitVec 8} (hidx : idx.toNat ≤ 14) :
    ∃ t, execOver table (.ldc rd idx) s = .next t ∧ WroteOnlyKeys s t [rd] ∧
      (constRomOver table)[idx.toNat]? = some (t.readK rd) := by
  obtain ⟨v, hv, hexec⟩ := execLdcOver_of_le table hidx rd s
  refine ⟨_, hexec, .writeK_completed s rd v, ?_⟩
  rw [readK_writeK_completed, hv]

end Sys2Proof.Machine
end

section
/-! Settled: the register transfers and the accessors (43_register_access.md R260 to R271). -/

namespace Sys2Proof.Machine

/-- Settles O37: the completion is its end alone. -/
theorem nopChangesOnlyBusyAndDone : Obligations.NopChangesOnlyBusyAndDone := by
  intro s
  have hexec : exec .nop s = _ := execOver_nop defaultTable s
  exact ⟨decode_cmdWord (by decide) rfl rfl, _, hexec, .of_exec hexec rfl rfl rfl⟩

/-- Settles O38: the value written is RA's. -/
theorem movCopiesRawValue : Obligations.MovCopiesRawValue := by
  intro s rd ra
  exact ⟨decode_cmdWord (by decide) rfl rfl, _, execOver_mov defaultTable s rd ra, .writeK_completed s rd _,
    readK_writeK_completed s rd _⟩

/-- Settles O39: widening keeps the number. -/
theorem ldiLoadsZeroExtendedImmediate : Obligations.LdiLoadsZeroExtendedImmediate := by
  intro s rd imm
  refine ⟨decode_cmdWord (by decide) rfl rfl, _, execOver_ldi defaultTable s rd imm, .writeK_completed s rd _, ?_⟩
  rw [readK_writeK_completed]
  exact BitVec.toNat_setWidth_of_le (by decide)

/-- Settles O40: the value loaded is the ROM's entry, in numbers for the default table. -/
theorem ldcLoadsRomConstant : Obligations.LdcLoadsRomConstant := by
  refine ⟨fun s rd idx hidx => ?_, fun table s rd idx hidx => ?_, fun rd idx hidx => ?_⟩
  · obtain ⟨t, hexec, hframe, hentry⟩ := ldc_loads_entry defaultTable s rd hidx
    refine ⟨decode_cmdWord (by decide) rfl (decide_eq_true hidx), t, hexec, hframe, ?_⟩
    rw [← constRomOver_default_toNat, List.getElem?_map, hentry, Option.map_some]
  · obtain ⟨t, hexec, hframe, hentry⟩ := ldc_loads_entry table s rd hidx
    refine ⟨t, hexec, hframe, fun h => ?_, fun h => ?_, fun h => ?_, fun j h => ?_⟩
    · rw [h, constRomOver_zero, Option.some.injEq] at hentry
      rw [← hentry]
      decide
    · rw [h, constRomOver_one, Option.some.injEq] at hentry
      rw [← hentry]
      decide
    · rw [h, constRomOver_two, Option.some.injEq] at hentry
      rw [← hentry]
      decide
    · rwa [h, constRomOver_add_three] at hentry
  · exact decode_cmdWord_illopnd (i := .ldc rd idx) (by decide) rfl (decide_eq_false hidx.not_ge)

/-- Settles O41: FLAG and DATA are the bit, as a truth value and as a number. -/
theorem getbitReadsOneBit : Obligations.GetbitReadsOneBit := by
  intro s ra bit
  have hexec := execOver_getbit defaultTable s ra bit
  refine ⟨decode_cmdWord (by decide) rfl rfl, _, hexec, .of_execOver hexec rfl rfl, ?_, ?_⟩
  · rw [completed_flag, setData_flag, setFlag_flag, keyBit_eq_decide, decide_eq_true_iff]
  · rw [completed_data, setData_data, BitVec.toNat_setWidth_of_le (by decide), BitVec.toNat_ofBool, toNat_keyBit]

/-- Settles O42, bit by bit. -/
theorem setbitWritesOneBit : Obligations.SetbitWritesOneBit := by
  intro s rd bit
  refine ⟨decode_cmdWord (by decide) rfl rfl, _, execOver_setbit defaultTable s rd bit, .writeK_completed s rd _,
    fun j hj => ?_⟩
  rw [readK_writeK_completed, getLsbD_setKeyBit _ hj, State.dataBit]

/-- Settles O43: DATA is the byte, widened. -/
theorem getbyteReadsOneByte : Obligations.GetbyteReadsOneByte := by
  refine ⟨fun s ra byte hbyte => ?_, fun ra byte hbyte => ?_⟩
  · have hexec := execOver_getbyte defaultTable s ra byte
    refine ⟨decode_cmdWord (by decide) rfl (decide_eq_true hbyte), _, hexec, .of_execOver hexec rfl rfl rfl, ?_⟩
    rw [completed_data, setData_data, BitVec.toNat_setWidth_of_le (by decide), keyByte_toNat]
  · exact decode_cmdWord_illopnd (i := .getbyte ra byte) (by decide) rfl (decide_eq_false hbyte.not_ge)

/-- Settles O44, bit by bit. -/
theorem setbyteWritesOneByte : Obligations.SetbyteWritesOneByte := by
  refine ⟨fun s rd byte hbyte => ?_, fun rd byte hbyte => ?_⟩
  · refine ⟨decode_cmdWord (by decide) rfl (decide_eq_true hbyte), _, execOver_setbyte defaultTable s rd byte,
      .writeK_completed s rd _, fun j hj => ?_⟩
    rw [readK_writeK_completed, getLsbD_setKeyByte _ hj]
    split
    · rw [getLsbD_dataByte s (by omega)]
    · rfl
  · exact decode_cmdWord_illopnd (i := .setbyte rd byte) (by decide) rfl (decide_eq_false hbyte.not_ge)

/-- Settles O45: DATA is the word. -/
theorem getwordReadsOneWord : Obligations.GetwordReadsOneWord := by
  refine ⟨fun s ra word hword => ?_, fun ra word hword => ?_⟩
  · have hexec := execOver_getword defaultTable s ra word
    refine ⟨decode_cmdWord (by decide) rfl (decide_eq_true hword), _, hexec, .of_execOver hexec rfl rfl rfl, ?_⟩
    rw [completed_data, setData_data, keyWord_toNat]
  · exact decode_cmdWord_illopnd (i := .getword ra word) (by decide) rfl (decide_eq_false hword.not_ge)

/-- Settles O46, bit by bit. -/
theorem setwordWritesOneWord : Obligations.SetwordWritesOneWord := by
  refine ⟨fun s rd word hword => ?_, fun rd word hword => ?_⟩
  · refine ⟨decode_cmdWord (by decide) rfl (decide_eq_true hword), _, execOver_setword defaultTable s rd word,
      .writeK_completed s rd _, fun j hj => ?_⟩
    rw [readK_writeK_completed, getLsbD_setKeyWord _ hj]
  · exact decode_cmdWord_illopnd (i := .setword rd word) (by decide) rfl (decide_eq_false hword.not_ge)

/-- Settles O47, for every byte and bit number. -/
theorem accessorUnitsNest : Obligations.AccessorUnitsNest := fun x =>
  ⟨fun b _ => keyByte_eq_extract_keyWord x b, fun i _ => keyBit_eq_getLsbD_keyByte x i⟩

end Sys2Proof.Machine
end

section
/-! Runs from a legal state: a bound on the steps, the invariant along them, and the end (70 R362, R371). -/

namespace Sys2Proof.Machine

variable {s t u : State}

theorem run_succ_of_step (h : step s = .next u) (k : Nat) :
    Host.Core.run Sys2Proof.core (k + 1) s = Host.Core.run Sys2Proof.core k u := by
  have hs : Host.Core.step Sys2Proof.core s = .next u := h
  simp only [Host.Core.run, hs]

theorem exists_step_of_run_succ {k : Nat} (h : Host.Core.run Sys2Proof.core (k + 1) s = .next t) :
    ∃ u, step s = .next u ∧ Host.Core.run Sys2Proof.core k u = .next t := by
  cases hs : step s with
  | next u => exact ⟨u, rfl, run_succ_of_step hs k ▸ h⟩
  | fault r => cases r
  | refused r =>
    have hs : Host.Core.step Sys2Proof.core s = .refused r := hs
    simp only [Host.Core.run, hs] at h
    cases h

theorem run_add {j : Nat} (h : Host.Core.run Sys2Proof.core j s = .next t) (k : Nat) :
    Host.Core.run Sys2Proof.core (j + k) s = Host.Core.run Sys2Proof.core k t := by
  induction j generalizing s with
  | zero =>
    cases h
    rw [Nat.zero_add]
  | succ j ih =>
    obtain ⟨u, hstep, hrun⟩ := exists_step_of_run_succ h
    rw [Nat.add_right_comm, run_succ_of_step hstep, ih hrun]

theorem run_of_step_self (h : step t = .next t) (k : Nat) : Host.Core.run Sys2Proof.core k t = .next t := by
  induction k with
  | zero => rfl
  | succ k ih => rw [run_succ_of_step h, ih]

theorem State.Inv.of_run {k : Nat} (h : s.Inv) (hrun : Host.Core.run Sys2Proof.core k s = .next t) : t.Inv := by
  induction k generalizing s with
  | zero =>
    cases hrun
    exact h
  | succ k ih =>
    obtain ⟨u, hstep, hrun⟩ := exists_step_of_run_succ hrun
    exact ih (h.of_stepOver (stepOver_default ▸ hstep)) hrun

theorem State.Inv.pend_of_idle (h : s.Inv) (hb : s.busy = false) : s.pend = none :=
  Option.isNone_iff_eq_none.1 (by rw [← Option.not_isSome, ← h.busy_pend, hb]; rfl)

theorem State.Inv.pend_of_busy (h : s.Inv) (hb : s.busy = true) : ∃ i, s.pend = some i ∧ i.wellFormed = true := by
  obtain ⟨i, hi⟩ := Option.isSome_iff_exists.1 (h.busy_pend.symm.trans hb)
  exact ⟨i, hi, by simpa [hi] using h.pend_wellFormed⟩

/-- At the end of a run a step changes nothing. -/
theorem step_of_ended (h : t.Inv) (hend : t.ended) : step t = .next t := by
  obtain ⟨hagenda, hbusy⟩ := hend
  simp [step_nil hagenda, State.complete, h.pend_of_idle hbusy]

/-- t is reached from s in at most n steps. -/
def Reaches (n : Nat) (s t : State) : Prop := ∃ k, k ≤ n ∧ Host.Core.run Sys2Proof.core k s = .next t

theorem Reaches.refl (s : State) : Reaches 0 s s := ⟨0, le_rfl, rfl⟩

theorem Reaches.of_step (h : step s = .next t) : Reaches 1 s t := ⟨1, le_rfl, run_succ_of_step h 0⟩

theorem Reaches.trans {m n : Nat} (h : Reaches m s t) (h' : Reaches n t u) : Reaches (m + n) s u := by
  obtain ⟨j, hj, hjrun⟩ := h
  obtain ⟨k, hk, hkrun⟩ := h'
  exact ⟨j + k, Nat.add_le_add hj hk, (run_add hjrun k).trans hkrun⟩

theorem Reaches.mono {m n : Nat} (h : Reaches m s t) (hmn : m ≤ n) : Reaches n s t := by
  obtain ⟨k, hk, hrun⟩ := h
  exact ⟨k, hk.trans hmn, hrun⟩

theorem Reaches.inv {n : Nat} (h : Reaches n s t) (hs : s.Inv) : t.Inv := by
  obtain ⟨k, -, hrun⟩ := h
  exact hs.of_run hrun

/-- A run that reaches its end stays there. -/
theorem Reaches.run_of_ended {n : Nat} (h : Reaches n s t) (ht : t.Inv) (hend : t.ended) {m : Nat} (hm : n ≤ m) :
    Host.Core.run Sys2Proof.core m s = .next t := by
  obtain ⟨k, hk, hrun⟩ := h
  obtain ⟨d, rfl⟩ := Nat.exists_eq_add_of_le (hk.trans hm)
  rw [run_add hrun, run_of_step_self (step_of_ended ht hend)]

/-! ### The events of an agenda, taken one after another -/

/-- With these events next, a legal block takes them all, in at most n steps, and Q holds then. -/
def State.PlaysIn (s : State) (n : Nat) (evs : List Event) (Q : State → Prop) : Prop :=
  ∀ rest, s.Inv → s.agenda = evs ++ rest → ∃ t, Reaches n s t ∧ t.agenda = rest ∧ Q t

/-- With these events next, a legal block takes them all, in at most as many steps as they weigh, and Q holds then. -/
def State.Plays (s : State) (evs : List Event) (Q : State → Prop) : Prop :=
  s.PlaysIn (evs.map Event.weight).sum evs Q

section
variable {m n : Nat} {evs evs' : List Event} {Q R : State → Prop}

theorem State.PlaysIn.nil (h : Q s) : s.PlaysIn 0 [] Q := fun _ _ ha => ⟨s, .refl s, ha, h⟩

theorem State.PlaysIn.append (h : s.PlaysIn m evs R) (h' : ∀ t, R t → t.PlaysIn n evs' Q) :
    s.PlaysIn (m + n) (evs ++ evs') Q := by
  intro rest hs ha
  obtain ⟨t, hst, hat, hR⟩ := h (evs' ++ rest) hs (by rw [ha, List.append_assoc])
  obtain ⟨u, htu, hau, hQ⟩ := h' t hR rest (hst.inv hs) hat
  exact ⟨u, hst.trans htu, hau, hQ⟩

theorem State.PlaysIn.mono (h : s.PlaysIn m evs R) (hmn : m ≤ n) (h' : ∀ t, R t → Q t) : s.PlaysIn n evs Q := by
  intro rest hs ha
  obtain ⟨t, hst, hat, hR⟩ := h rest hs ha
  exact ⟨t, hst.mono hmn, hat, h' t hR⟩

/-- An event that happens and puts further events before the rest of the agenda. -/
theorem State.PlaysIn.event {e : Event} (h : s.Inv → ∀ rest, ∃ t,
    ({ s with agenda := rest } : State).happen exec e = .next t ∧ t.agenda = evs ++ rest ∧ t.PlaysIn n evs Q) :
    s.PlaysIn (1 + n) [e] Q := by
  intro rest hs ha
  obtain ⟨t, hstep, hat, hplays⟩ := h hs rest
  have hst : Reaches 1 s t := .of_step ((step_cons ha).trans hstep)
  obtain ⟨u, htu, hau, hQ⟩ := hplays rest (hst.inv hs) hat
  exact ⟨u, hst.trans htu, hau, hQ⟩

theorem State.Plays.append (h : s.Plays evs R) (h' : ∀ t, R t → t.Plays evs' Q) : s.Plays (evs ++ evs') Q := by
  rw [State.Plays, List.map_append, List.sum_append]
  exact PlaysIn.append h h'

theorem State.Plays.mono (h : s.Plays evs R) (h' : ∀ t, R t → Q t) : s.Plays evs Q := PlaysIn.mono h le_rfl h'

/-- Events that come word by word, by what holds before each word. -/
theorem State.Plays.flatMap_range {body : Nat → List Event} {I : Nat → State → Prop}
    (hbody : ∀ w, w < n → ∀ t, I w t → t.Plays (body w) (I (w + 1))) (h : I 0 s) :
    s.Plays ((List.range n).flatMap body) (I n) := by
  induction n with
  | zero => exact .nil h
  | succ n ih =>
    rw [List.range_succ, List.flatMap_append, List.flatMap_singleton]
    exact (ih fun w hw => hbody w (hw.trans n.lt_succ_self)).append (hbody n n.lt_succ_self)

/-- A host transaction that leaves the agenda as it is. -/
theorem plays_bus {a : BusAccess} (h : ∀ rest, (({ s with agenda := rest } : State).busAccess a).agenda = rest ∧
    Q (({ s with agenda := rest } : State).busAccess a)) : s.Plays [.bus a] Q :=
  .event (evs := []) fun _ rest => ⟨_, rfl, (h rest).1, .nil (h rest).2⟩

/-- A run whose agenda is played to an idle block ends there. -/
theorem State.Plays.run (h : s.Plays s.agenda Q) (hs : s.Inv) (hidle : ∀ t, Q t → t.busy = false) :
    ∃ t, Host.Core.run Sys2Proof.core s.stepsToEnd s = .next t ∧ t.ended ∧ Q t := by
  obtain ⟨t, hst, hat, hQ⟩ := h [] hs (List.append_nil _).symm
  exact ⟨t, hst.run_of_ended (hst.inv hs) ⟨hat, hidle t hQ⟩ (Nat.le_succ _), ⟨hat, hidle t hQ⟩, hQ⟩

end

end Sys2Proof.Machine
end

section
/-! WAITIDLE (30_encoding.md R110): however the polls meet the pending command, the block is idle afterwards, the
command has completed, and the host has read STATUS alone. -/

namespace Sys2Proof.Machine

/-- What the host has read at DATA, oldest first. -/
def State.dataReads (s : State) : List (Offset × Word) := s.reads.filter (fun e => e.1 == 0x10)

/-- From s to t the host has polled STATUS at most: neither the block's results nor what was read at DATA differ. -/
structure Polled (s t : State) : Prop extends BodyHeld s t where
  dataReads : t.dataReads = s.dataReads

/-- From s to t the pending command, if any, has completed, and the host has polled STATUS at most. -/
inductive Waited (s t : State) : Prop where
  | idle (hb : s.busy = false) (h : Polled s t)
  | completed {i : Instr} {u v : State} (hb : s.busy = true) (hp : s.pend = some i) (h : Polled s u)
      (hexec : exec i u = .next v) (h' : Polled v t)

section
variable {s t u : State}

theorem Polled.trans (h : Polled s t) (h' : Polled t u) : Polled s u where
  K := h'.K.trans h.K
  data := h'.data.trans h.data
  flag := h'.flag.trans h.flag
  cmpr := h'.cmpr.trans h.cmpr
  pend := h'.pend.trans h.pend
  busy := h'.busy.trans h.busy
  dataReads := h'.dataReads.trans h.dataReads

theorem Polled.of_agenda (s : State) (rest : List Event) : Polled s { s with agenda := rest } := by
  constructor
  · constructor <;> rfl
  · rfl

theorem Polled.readK (h : Polled s t) (r : KReg) : t.readK r = s.readK r := by
  simp only [State.readK, h.K]

theorem Polled.pollStatus (s : State) (polls : Nat) : Polled s (s.pollStatus polls) where
  toBodyHeld := .pollStatus s polls
  dataReads := by
    obtain ⟨agenda, heq⟩ := pollStatus_cases s polls
    simp [heq, State.dataReads]

/-! A command's completion leaves the block idle; of the outside world it changes nothing. -/

section
variable {i : Instr} (h : exec i s = .next t)
include h

theorem exec_busy : t.busy = false := by
  obtain ⟨K, data, flag, cmpr, rfl⟩ := exec_next h
  rfl

theorem exec_agenda : t.agenda = s.agenda := by
  obtain ⟨K, data, flag, cmpr, rfl⟩ := exec_next h
  rfl

theorem exec_dataReads : t.dataReads = s.dataReads := by
  obtain ⟨K, data, flag, cmpr, rfl⟩ := exec_next h
  rfl

end

theorem Waited.busy (h : Waited s t) : t.busy = false := by
  cases h with
  | idle hb h => exact h.busy.trans hb
  | completed _ hp h hexec h' => exact h'.busy.trans (exec_busy hexec)

theorem Waited.dataReads (h : Waited s t) : t.dataReads = s.dataReads := by
  cases h with
  | idle hb h => exact h.dataReads
  | completed _ hp h hexec h' => exact h'.dataReads.trans ((exec_dataReads hexec).trans h.dataReads)

theorem Waited.polled (h : Waited s t) (h' : Polled t u) : Waited s u := by
  cases h with
  | idle hb h => exact .idle hb (h.trans h')
  | completed hb hp h hexec h'' => exact .completed hb hp h hexec (h''.trans h')

theorem Waited.of_idle (h : Waited s t) (hb : s.busy = false) : Polled s t := by
  cases h with
  | idle _ h => exact h
  | completed hbusy => exact absurd hbusy (Bool.eq_false_iff.1 hb)

/-- After a wait the block is idle, so a further wait is polls alone. -/
theorem Waited.waited (h : Waited s t) (h' : Waited t u) : Waited s u :=
  h.polled (h'.of_idle h.busy)

theorem Polled.waited (h : Polled s t) (h' : Waited t u) : Waited s u := by
  cases h' with
  | idle hb h' => exact .idle (h.busy ▸ hb) (h.trans h')
  | completed hb hp h' hexec h'' => exact .completed (h.busy ▸ hb) (h.pend ▸ hp) (h.trans h') hexec h''

end

/-! ### The polls -/

theorem complete_of_idle {s : State} (run : Instr → State → Result) (hp : s.pend = none) :
    s.complete run = .next s := by
  simp only [State.complete, hp]

/-- Every well-formed command completes (60_exceptions.md R313). -/
theorem exists_exec {i : Instr} (hw : i.wellFormed = true) (s : State) : ∃ t, exec i s = .next t := by
  cases i
  case ldc rd idx =>
    obtain ⟨v, -, hexec⟩ := execLdcOver_of_le defaultTable (of_decide_eq_true hw) rd s
    exact ⟨_, hexec⟩
  all_goals exact ⟨_, rfl⟩

/-- R43: STATUS[0] is BUSY. -/
theorem busRead_status_bit_zero (s : State) : (s.busRead 0x08 .word).getLsbD 0 = s.busy := by
  have hread : s.busRead 0x08 .word = s.statusWord := rfl
  rw [hread]
  simp only [State.statusWord, BitVec.getLsbD_setWidth, BitVec.getLsbD_append]
  simp

section
variable {s : State}

theorem pollStatus_agenda_of_idle (hb : s.busy = false) (polls : Nat) : (s.pollStatus polls).agenda = s.agenda := by
  simp only [State.pollStatus, busRead_status_bit_zero, hb, Bool.false_eq_true, if_false, receive_agenda]

theorem pollStatus_zero_agenda_of_busy (hb : s.busy = true) :
    (s.pollStatus 0).agenda = .completion :: .waitIdle 0 :: s.agenda := by
  simp only [State.pollStatus, busRead_status_bit_zero, hb, if_true]

theorem pollStatus_succ_agenda_of_busy (hb : s.busy = true) (polls : Nat) :
    (s.pollStatus (polls + 1)).agenda = .waitIdle polls :: s.agenda := by
  simp only [State.pollStatus, busRead_status_bit_zero, hb, if_true]

/-! ### What the polls and the completion come to -/

theorem plays_completion (s : State) : s.Plays [.completion] (Waited s) := by
  refine .event (evs := []) fun hs rest => ?_
  obtain hb | hb := Bool.eq_false_or_eq_true s.busy
  · obtain ⟨i, hpend, hw⟩ := hs.pend_of_busy hb
    obtain ⟨t, hexec⟩ := exists_exec hw { s with agenda := rest }
    have hcomplete := complete_of_pend (s := { s with agenda := rest }) (run := exec) hpend hw
    exact ⟨t, hcomplete.trans hexec, exec_agenda hexec,
      .nil (.completed hb hpend (.of_agenda s rest) hexec (.of_agenda t t.agenda))⟩
  · have hcomplete := complete_of_idle (s := { s with agenda := rest }) exec (hs.pend_of_idle hb)
    exact ⟨_, hcomplete, rfl, .nil (.idle hb (.of_agenda s rest))⟩

/-- A poll, by the events it puts before the rest of the agenda. -/
theorem playsIn_poll {polls n : Nat} {evs : List Event} {Q : State → Prop}
    (hagenda : ∀ t : State, t.busy = s.busy → (t.pollStatus polls).agenda = evs ++ t.agenda)
    (hplays : ∀ t, Polled s t → t.PlaysIn n evs Q) : s.PlaysIn (1 + n) [.waitIdle polls] Q :=
  .event fun _ rest => ⟨_, rfl, hagenda { s with agenda := rest } rfl,
    hplays _ ((Polled.of_agenda s rest).trans (.pollStatus _ polls))⟩

theorem playsIn_waitIdle_of_idle (hb : s.busy = false) (polls : Nat) : s.PlaysIn 1 [.waitIdle polls] (Polled s) :=
  playsIn_poll (evs := []) (fun _ hbusy => pollStatus_agenda_of_idle (hbusy.trans hb) polls) fun _ h => .nil h

/-- The polls that read BUSY = 1, one after another; then the completion; then the poll that reads 0. -/
theorem plays_waitIdle (s : State) (polls : Nat) : s.Plays [.waitIdle polls] (Waited s) := by
  cases hb : s.busy with
  | false => exact (playsIn_waitIdle_of_idle hb polls).mono (by simp [Event.weight]) fun _ => .idle hb
  | true =>
    induction polls generalizing s with
    | zero =>
      refine playsIn_poll (n := 1 + 1) (evs := [.completion] ++ [.waitIdle 0])
        (fun _ hbusy => pollStatus_zero_agenda_of_busy (hbusy.trans hb)) fun t ht => ?_
      refine State.PlaysIn.append (plays_completion t) fun u hu => ?_
      exact (playsIn_waitIdle_of_idle hu.busy 0).mono le_rfl fun v hv => ht.waited (hu.polled hv)
    | succ polls ih =>
      refine (playsIn_poll (evs := [.waitIdle polls])
        (fun _ hbusy => pollStatus_succ_agenda_of_busy (hbusy.trans hb) polls)
        fun t ht => (ih t (ht.busy.trans hb)).mono fun _ => ht.waited).mono ?_ fun _ => id
      simp only [Event.weight, List.map_singleton, List.sum_singleton]
      omega

end

/-- `WAITIDLE`, whether the command completes before the first poll or while the host polls. -/
theorem plays_macroWait (w : Wait) (s : State) : s.Plays (macroWait w) (Waited s) := by
  unfold macroWait
  split
  · exact (plays_completion s).append fun t ht =>
      (plays_waitIdle t w.polls).mono fun u hu => ht.waited hu
  · exact plays_waitIdle s w.polls

end Sys2Proof.Machine
end

section
/-! `LD256` and `ST256` (30_encoding.md R110, 43_register_access.md R272), word by word. -/

namespace Sys2Proof.Machine

/-! ### The words of a key -/

theorem keyWord_setKeyWord (x : Key) {w j : Nat} (hj : j < 8) (v : Word) :
    keyWord (setKeyWord x w v) j = if j = w then v else keyWord x j := by
  apply BitVec.eq_of_getLsbD_eq
  intro k hk
  rw [getLsbD_keyWord _ j hk, getLsbD_setKeyWord x (by omega)]
  by_cases hjw : j = w
  · subst hjw
    rw [if_pos (by omega), if_pos rfl, Nat.add_sub_cancel_left]
  · rw [if_neg (by omega), if_neg hjw, getLsbD_keyWord x j hk]

/-- Eight words make a key. -/
theorem key_eq_of_keyWords {x y : Key} (h : ∀ j, j < 8 → keyWord x j = keyWord y j) : x = y := by
  apply BitVec.eq_of_getLsbD_eq
  intro i hi
  have hword := congrArg (fun v => v.getLsbD (i % 32)) (h (i / 32) (by omega))
  simpa only [getLsbD_keyWord _ _ (Nat.mod_lt i (show 32 > 0 by decide)), Nat.div_add_mod] using hword

theorem wordIndex_toNat {w : Nat} (hw : w < 8) : (BitVec.ofNat 8 w).toNat = w :=
  Nat.mod_eq_of_lt (by omega)

/-! ### The host's transactions and commands, up to polls of STATUS -/

theorem dataReads_receive_data (s : State) (v : Word) : (s.receive 0x10 v).dataReads = s.dataReads ++ [(0x10, v)] := by
  rw [State.dataReads, receive_reads, List.filter_append]
  rfl

theorem plays_rdData (s : State) : s.Plays [rdData] (Polled (s.receive 0x10 s.data)) :=
  plays_bus fun rest => ⟨rfl, .of_agenda (s.receive 0x10 s.data) rest⟩

section
variable {s : State} (hb : s.busy = false)
include hb

theorem plays_wrData (v : Word) : s.Plays [wrData v] (Polled (s.setData v)) :=
  plays_bus fun rest => by
    have hwrite : ({ s with agenda := rest } : State).busAccess (.write 0x10 .word v) =
        { s.setData v with agenda := rest } := if_neg (Bool.eq_false_iff.1 hb)
    rw [hwrite]
    exact ⟨rfl, .of_agenda (s.setData v) rest⟩

theorem plays_wrCmd {i : Instr} (hi : i.wellFormed = true) : s.Plays [wrCmd (encode i)] (Polled (s.accept i)) :=
  plays_bus fun rest => by
    have hwrite : ({ s with agenda := rest } : State).busAccess (.write 0x0C .word (encode i)) =
        { s.accept i with agenda := rest } :=
      issue_of_idle (s := { s with agenda := rest }) hb (decodeOfEncodeIsIdentity i hi)
    rw [hwrite]
    exact ⟨rfl, .of_agenda (s.accept i) rest⟩

end

/-- `ISSUE` and the wait for the command it issues. -/
theorem plays_macroIssue_macroWait (s : State) {i : Instr} (hi : i.wellFormed = true) (wIssue w : Wait) :
    s.Plays (macroIssue wIssue i ++ macroWait w) (fun u => ∃ t, Waited s t ∧ Waited (t.accept i) u) := by
  refine State.Plays.append (R := fun u => ∃ t, Waited s t ∧ Polled (t.accept i) u) ?_ ?_
  · exact (plays_macroWait wIssue s).append fun t ht => (plays_wrCmd ht.busy hi).mono fun _ hu => ⟨t, ht, hu⟩
  · rintro u ⟨t, ht, hu⟩
    exact (plays_macroWait w u).mono fun _ hv => ⟨t, ht, hu.waited hv⟩

section
variable {s t : State}

theorem Waited.of_accept {i : Instr} (h : Waited (s.accept i) t) :
    ∃ u v, Polled (s.accept i) u ∧ exec i u = .next v ∧ Polled v t := by
  cases h with
  | idle hb => cases hb
  | completed hb hp h hexec h' =>
    cases hp
    exact ⟨_, _, h, hexec, h'⟩

theorem Waited.readK_of_setword {n : KReg} {w : BitVec 8} (h : Waited (s.accept (.setword n w)) t) :
    t.readK n = setKeyWord (s.readK n) w.toNat s.data := by
  obtain ⟨u, v, h, hexec, h'⟩ := h.of_accept
  cases hexec
  rw [h'.readK, readK_writeK_completed, h.readK, h.data, accept_readK, accept_data]

section
variable {n : KReg} {w : BitVec 8} (h : Waited (s.accept (.getword n w)) t)
include h

theorem Waited.readK_of_getword (r : KReg) : t.readK r = s.readK r := by
  obtain ⟨u, v, h, hexec, h'⟩ := h.of_accept
  cases hexec
  rw [h'.readK, completed_readK, setData_readK, h.readK, accept_readK]

theorem Waited.data_of_getword : t.data = keyWord (s.readK n) w.toNat := by
  obtain ⟨u, v, h, hexec, h'⟩ := h.of_accept
  cases hexec
  rw [h'.data, completed_data, setData_data, h.readK, accept_readK]

end

end

/-! ### LD256 -/

/-- Before word w of LD256: nothing more has been read at DATA, and once the host has waited, the register's words below
w are those of x. -/
structure LoadedTo (x : Key) (n : KReg) (reads : List (Offset × Word)) (w : Nat) (s : State) : Prop where
  dataReads : s.dataReads = reads
  words : ∀ t, Waited s t → ∀ j, j < w → keyWord (t.readK n) j = keyWord x j

variable {x : Key} {n : KReg} {reads : List (Offset × Word)} {s : State} {w : Nat}

theorem plays_macroLoadWord (hw : w < 8) (h : LoadedTo x n reads w s) (wait : Wait) :
    s.Plays (macroLoadWord wait n x w) (LoadedTo x n reads (w + 1)) := by
  have hwf : (Instr.setword n (BitVec.ofNat 8 w)).wellFormed = true :=
    decide_eq_true (by rw [wordIndex_toNat hw]; omega)
  refine (plays_macroWait wait s).append fun t ht => ?_
  refine State.Plays.append (evs := [_]) (plays_wrData ht.busy (keyWord x w)) fun u hu => ?_
  refine (plays_wrCmd (hu.busy.trans ht.busy) hwf).mono fun v hv => ?_
  refine ⟨?_, fun z hz j hj => ?_⟩
  · calc v.dataReads = u.dataReads := hv.dataReads
      _ = t.dataReads := hu.dataReads
      _ = s.dataReads := ht.dataReads
      _ = reads := h.dataReads
  · rw [(hv.waited hz).readK_of_setword, keyWord_setKeyWord _ (by omega), wordIndex_toNat hw, hu.data, hu.readK]
    split
    · next hjw => rw [hjw, setData_data]
    · next hjw => exact h.words t ht j (by omega)

theorem plays_macroLd256 (waits : Nat → Wait) (n : KReg) (x : Key) (s : State) :
    s.Plays (macroLd256 waits n x) (LoadedTo x n s.dataReads 8) :=
  .flatMap_range (fun w hw _ ht => plays_macroLoadWord hw ht (waits w))
    ⟨rfl, fun _ _ _ hj => absurd hj (Nat.not_lt_zero _)⟩

theorem LoadedTo.key (h : LoadedTo x n reads 8 s) {t : State} (ht : Waited s t) : t.readK n = x :=
  key_eq_of_keyWords (h.words t ht)

/-! ### ST256 -/

/-- The reads at DATA of the first w words of a key. -/
def wordReads (x : Key) (w : Nat) : List (Offset × Word) := (List.range w).map (fun j => (0x10, keyWord x j))

theorem wordReads_succ (x : Key) (w : Nat) : wordReads x (w + 1) = wordReads x w ++ [(0x10, keyWord x w)] := by
  simp only [wordReads, List.range_succ, List.map_append, List.map_singleton]

/-- Before word w of ST256: once the host has waited, the register holds x; w words of x have been read, and after the
first of them the block is idle. -/
structure StoredTo (x : Key) (n : KReg) (reads : List (Offset × Word)) (w : Nat) (s : State) : Prop where
  key : ∀ t, Waited s t → t.readK n = x
  dataReads : s.dataReads = reads ++ wordReads x w
  idle : 0 < w → s.busy = false

theorem plays_macroStoreWord (hw : w < 8) (h : StoredTo x n reads w s) (wIssue wRead : Wait) :
    s.Plays (macroStoreWord wIssue wRead n w) (StoredTo x n reads (w + 1)) := by
  have hwf : (Instr.getword n (BitVec.ofNat 8 w)).wellFormed = true :=
    decide_eq_true (by rw [wordIndex_toNat hw]; omega)
  refine (plays_macroIssue_macroWait s hwf wIssue wRead).append fun u => ?_
  rintro ⟨t, ht, hu⟩
  have hkey : u.readK n = x := (hu.readK_of_getword n).trans (h.key t ht)
  have hdata : u.data = keyWord x w := by rw [hu.data_of_getword, h.key t ht, wordIndex_toNat hw]
  have hreads : u.dataReads = reads ++ wordReads x w := hu.dataReads.trans (ht.dataReads.trans h.dataReads)
  refine (plays_rdData u).mono fun v hv => ?_
  have hbusy : v.busy = false := hv.busy.trans hu.busy
  refine ⟨fun z hz => ?_, ?_, fun _ => hbusy⟩
  · rw [(hz.of_idle hbusy).readK, hv.readK, receive_readK, hkey]
  · rw [hv.dataReads, dataReads_receive_data, hreads, hdata, wordReads_succ, List.append_assoc]

theorem plays_macroSt256 (issueWaits readWaits : Nat → Wait) (h : StoredTo x n reads 0 s) :
    s.Plays (macroSt256 issueWaits readWaits n) (StoredTo x n reads 8) :=
  .flatMap_range (fun w hw _ ht => plays_macroStoreWord hw ht (issueWaits w) (readWaits w)) h

/-- Settles O48: LD256 leaves x in the register once the host has waited, ST256 reads its words from there, and the
block is idle when the last of them has been read. -/
theorem loadThenStoreKeyRoundTrip : Obligations.LoadThenStoreKeyRoundTrip := by
  intro s n x loadWaits issueWaits readWaits hs ha
  have hplays : s.Plays s.agenda (StoredTo x n s.dataReads 8) := by
    rw [ha]
    exact (plays_macroLd256 loadWaits n x s).append fun t ht => plays_macroSt256 issueWaits readWaits
      ⟨fun _ => ht.key, ht.dataReads.trans (List.append_nil _).symm, nofun⟩
  have hidle (t : State) (ht : StoredTo x n s.dataReads 8 t) : t.busy = false := ht.idle (by decide)
  obtain ⟨t, hrun, hend, ht⟩ := hplays.run hs hidle
  exact ⟨t, hrun, hend, ht.key t (.idle (hidle t ht) (.of_agenda t t.agenda)), ht.dataReads⟩

end Sys2Proof.Machine
end

section
/-! Completions, errors and the interrupt line (60_exceptions.md R313, R316, R319, R320): a well-formed command always
completes, the line follows its two sources, and the events of one cycle have their order. -/

namespace Sys2Proof.Machine

/-! ### Totality of the command bodies -/

/-- KVALID and LDC alone consult the table. KVALID completes on any; LDC does because R107 bounds its index, so the ROM
has the entry. -/
theorem exists_execOver (table : UnsafeTable) {i : Instr} (hw : i.wellFormed = true) (s : State) :
    ∃ t, execOver table i s = .next t := by
  cases i
  case kvalid ra => exact ⟨_, rfl⟩
  case ldc rd idx =>
    obtain ⟨v, -, hexec⟩ := execLdcOver_of_le table (of_decide_eq_true hw) rd s
    exact ⟨_, hexec⟩
  all_goals exact exists_exec hw s

theorem exists_completed_execOver (table : UnsafeTable) {i : Instr} (hw : i.wellFormed = true) (s : State) :
    ∃ t, execOver table i s = .next t ∧ Completed s t := by
  obtain ⟨t, ht⟩ := exists_execOver table hw s
  exact ⟨t, ht, .of_execOver ht⟩

/-- Settles O49: the completion is total over every table, and `exec` is that over the default one. -/
theorem everyCommandCompletesWithoutError : Obligations.EveryCommandCompletesWithoutError := by
  refine ⟨fun i s hw => ?_, fun table i s hw => exists_completed_execOver table hw s⟩
  rw [← execOver_default]
  exact exists_completed_execOver defaultTable hw s

/-! ### The interrupt line -/

section
variable {s : State}

theorem irq_of_done (h : s.done = true) : s.irq = s.ie := by
  simp [State.irq, h]

theorem irq_of_err (h : s.err = true) : s.irq = s.ie := by
  simp [State.irq, h]

theorem irq_of_no_source (hdone : s.done = false) (herr : s.err = false) : s.irq = false := by
  simp [State.irq, hdone, herr]

end

theorem busWrite_ctrl (s : State) (v : Word) : s.busWrite 0x04 .word v = s.writeCtrl v := rfl

theorem busWrite_status (s : State) (v : Word) : s.busWrite 0x08 .word v = s.writeStatus v := rfl

/-- R42: a CTRL write that does not reset the block writes IE alone. -/
theorem writeCtrl_of_not_srst (s : State) {v : Word} (h : v.getLsbD 1 = false) :
    s.writeCtrl v = { s with ie := v.getLsbD 0 } :=
  if_neg (Bool.eq_false_iff.1 h)

/-- Settles O57: a completion sets DONE and keeps IE, an error sets ERR and keeps IE, the acknowledgement clears both
sources, and a CTRL write changes IE alone. -/
theorem interruptLineFollowsEvents : Obligations.InterruptLineFollowsEvents := by
  refine ⟨fun i s t h => ?_, fun s c => ?_, fun s v hdone herr => ?_, fun s v hsrst => ?_⟩
  · rw [← execOver_default] at h
    have hc : Completed s t := .of_execOver h
    exact (irq_of_done hc.done).trans hc.ie
  · exact irq_of_err (cmdError_err s c)
  · rw [busWrite_status, writeStatus_eq]
    exact irq_of_no_source (by simp only [hdone, Bool.not_true, Bool.and_false])
      (by simp only [herr, Bool.not_true, Bool.and_false])
  · rw [busWrite_ctrl, writeCtrl_of_not_srst s hsrst]
    rfl

/-! ### The events of one cycle -/

/-- Settles O58, by the definition of `Cycle.orders`: the reset is asked for first, then the completion with a write. -/
theorem simultaneousEventsAreOrdered : Obligations.SimultaneousEventsAreOrdered :=
  ⟨fun _ _ _ => rfl, fun _ _ => rfl⟩

end Sys2Proof.Machine
end

section
/-! Reset (70 R350 to R352): the reset value of every field, and the three ways a block comes to it. -/

namespace Sys2Proof.Machine

/-- R351: a CTRL write with bit 1 set resets the block. -/
theorem writeCtrl_of_srst (s : State) {v : Word} (h : v.getLsbD 1 = true) : s.writeCtrl v = s.blockReset :=
  if_pos h

/-- Settles O1: every key register is 0, and the other fields, the reads and irq compute. -/
theorem resetHasSpecifiedValues : Obligations.ResetHasSpecifiedValues := by
  refine ⟨reset_readK, ?_⟩
  decide

/-- Settles O56: the hardware reset with each kind of lost access, then the soft reset. -/
theorem resetsRestoreResetValues : Obligations.ResetsRestoreResetValues := by
  refine fun s rest => ⟨fun ha => ?_, fun off size v ha => ?_, fun off size ha => ?_, fun v hv ha => ?_⟩
  · exact step_cons ha
  · exact step_cons ha
  · exact ⟨Config.lostReadValue s.draws, step_cons ha⟩
  · rw [step_cons ha]
    exact congrArg Host.Outcome.next ((busWrite_ctrl _ v).trans (writeCtrl_of_srst _ hv))

end Sys2Proof.Machine
end

section
/-! Every run ends (70 R362, R371), for every unsafe-point table. The events of the agenda are taken one after another,
each in at most as many steps as it weighs; the command still pending then completes in one more. -/

namespace Sys2Proof.Machine

/-- In at most n steps of a block with the table, the run from s comes to its end, in a legal state. -/
inductive EndsWithin (table : UnsafeTable) : Nat → State → Prop where
  | ended {n : Nat} {s : State} (hs : s.Inv) (hend : s.ended) : EndsWithin table n s
  | step {n : Nat} {s t : State} (hstep : stepOver table s = .next t) (ht : EndsWithin table n t) :
      EndsWithin table (n + 1) s

/-- With this agenda, a run from any legal state ends within n steps. -/
def AgendaEndsWithin (table : UnsafeTable) (n : Nat) (agenda : List Event) : Prop :=
  ∀ s : State, s.Inv → s.agenda = agenda → EndsWithin table n s

section
variable {table : UnsafeTable} {n : Nat} {s t : State} {e : Event} {rest : List Event}

/-! ### Runs over a table -/

theorem runOver_succ_of_step (h : stepOver table s = .next t) (k : Nat) :
    Host.Core.run (coreOver table) (k + 1) s = Host.Core.run (coreOver table) k t := by
  have hs : (coreOver table).step s = .next t := h
  simp only [Host.Core.run, hs]

theorem runOver_of_step_self (h : stepOver table s = .next s) (k : Nat) :
    Host.Core.run (coreOver table) k s = .next s := by
  induction k with
  | zero => rfl
  | succ k ih => rw [runOver_succ_of_step h, ih]

theorem runOver_default (k : Nat) (s : State) :
    Host.Core.run (coreOver defaultTable) k s = Host.Core.run Sys2Proof.core k s := by
  change Host.Core.run ⟨State, Fault, Refusal, stepOver defaultTable, State.reset⟩ k s = _
  rw [stepOver_default]
  rfl

theorem stepOver_of_ended (hs : s.Inv) (hend : s.ended) : stepOver table s = .next s := by
  obtain ⟨hagenda, hbusy⟩ := hend
  exact (advance_nil hagenda).trans (complete_of_idle _ (hs.pend_of_idle hbusy))

theorem EndsWithin.run (h : EndsWithin table n s) :
    ∃ t, Host.Core.run (coreOver table) n s = .next t ∧ t.Inv ∧ t.ended := by
  induction h with
  | ended hs hend => exact ⟨_, runOver_of_step_self (stepOver_of_ended hs hend) _, hs, hend⟩
  | step hstep _ ih =>
    obtain ⟨t, hrun, ht⟩ := ih
    exact ⟨t, (runOver_succ_of_step hstep _).trans hrun, ht⟩

theorem EndsWithin.mono {m : Nat} (h : EndsWithin table n s) (hnm : n ≤ m) : EndsWithin table m s := by
  induction h generalizing m with
  | ended hs hend => exact .ended hs hend
  | step hstep _ ih =>
    obtain ⟨m, rfl⟩ := Nat.exists_eq_add_of_le' ((Nat.le_add_left 1 _).trans hnm)
    exact .step hstep (ih (Nat.le_of_succ_le_succ hnm))

/-! ### What an event leaves to come -/

theorem issue_agenda (s : State) (v : Word) : (s.issue v).agenda = s.agenda := by
  obtain ⟨-, heq⟩ | ⟨-, -, heq⟩ | ⟨-, -, heq⟩ | ⟨-, i, -, heq⟩ := issue_cases s v <;> rw [heq] <;> rfl

theorem writeStatus_agenda (s : State) (v : Word) : (s.writeStatus v).agenda = s.agenda := by
  rw [writeStatus_eq]

theorem busAccess_agenda (s : State) (a : BusAccess) : (s.busAccess a).agenda = s.agenda := by
  cases a with
  | read off size => rfl
  | write off size v =>
    rw [State.busAccess]
    obtain heq | heq | heq | heq | heq | heq | ⟨-, heq⟩ | ⟨-, heq⟩ := busWrite_cases s off size v <;>
      refine (congrArg State.agenda heq).trans ?_
    exacts [rfl, rfl, rfl, rfl, writeStatus_agenda s v, issue_agenda s v, rfl, rfl]

/-- A completion event happens in every legal state, and leaves the block idle. -/
theorem exists_complete (hs : s.Inv) :
    ∃ t, s.complete (execOver table) = .next t ∧ t.agenda = s.agenda ∧ t.busy = false := by
  cases hb : s.busy with
  | false => exact ⟨s, complete_of_idle _ (hs.pend_of_idle hb), rfl, hb⟩
  | true =>
    obtain ⟨i, hp, hw⟩ := hs.pend_of_busy hb
    obtain ⟨t, hexec, hdone⟩ := exists_completed_execOver table hw s
    exact ⟨t, (complete_of_pend hp hw).trans hexec, hdone.agenda, hdone.busy⟩

/-- An event that is no WAITIDLE happens in every legal state, and puts no further event before those to come. -/
theorem exists_happen (hs : s.Inv) (he : ∀ polls, e ≠ .waitIdle polls) :
    ∃ t, s.happen (execOver table) e = .next t ∧ t.agenda = s.agenda := by
  cases e with
  | bus a => exact ⟨_, rfl, busAccess_agenda s a⟩
  | completion =>
    obtain ⟨t, hc, hagenda, -⟩ := exists_complete (table := table) hs
    exact ⟨t, hc, hagenda⟩
  | waitIdle polls => exact absurd rfl (he polls)
  | reset lost =>
    obtain ⟨reads, draws, heq⟩ := hardReset_cases s lost
    exact ⟨_, rfl, by rw [heq]; rfl⟩

/-! ### The events of the agenda -/

theorem EndsWithin.of_happen (hs : s.Inv) (ha : s.agenda = e :: rest)
    (he : ({ s with agenda := rest } : State).happen (execOver table) e = .next t)
    (ht : t.Inv → EndsWithin table n t) : EndsWithin table (n + 1) s := by
  have hstep : stepOver table s = .next t := (advance_cons ha).trans he
  exact .step hstep (ht (hs.of_stepOver hstep))

theorem agendaEndsWithin_nil : AgendaEndsWithin table 1 [] := by
  intro s hs ha
  obtain ⟨t, hc, hagenda, hbusy⟩ := exists_complete (table := table) hs
  have hstep : stepOver table s = .next t := (advance_nil ha).trans hc
  exact .step hstep (.ended (hs.of_stepOver hstep) ⟨hagenda.trans ha, hbusy⟩)

section
variable (h : AgendaEndsWithin table n rest)
include h

theorem AgendaEndsWithin.cons_of_ne_waitIdle (he : ∀ polls, e ≠ .waitIdle polls) :
    AgendaEndsWithin table (n + 1) (e :: rest) := by
  intro s hs ha
  obtain ⟨t, ht, hagenda⟩ := exists_happen (table := table) (s := { s with agenda := rest }) { hs with } he
  exact .of_happen hs ha ht fun htinv => h t htinv hagenda

/-- The poll that reads BUSY = 0. -/
theorem AgendaEndsWithin.waitIdle_of_idle {polls : Nat} (hs : s.Inv) (ha : s.agenda = .waitIdle polls :: rest)
    (hb : s.busy = false) : EndsWithin table (n + 1) s :=
  .of_happen hs ha rfl fun htinv => h _ htinv (pollStatus_agenda_of_idle (s := { s with agenda := rest }) hb polls)

/-- While BUSY = 1, the polls that read 1, one after another; then the completion; then the poll that reads 0. -/
theorem AgendaEndsWithin.waitIdle_of_busy (polls : Nat) {s : State} (hs : s.Inv)
    (ha : s.agenda = .waitIdle polls :: rest) (hb : s.busy = true) : EndsWithin table (n + polls + 3) s := by
  have hbusy : (({ s with agenda := rest } : State).pollStatus polls).busy = true :=
    (BodyHeld.pollStatus _ polls).busy.trans hb
  refine .of_happen hs ha rfl fun htinv => ?_
  induction polls generalizing s with
  | zero =>
    have hagenda := pollStatus_zero_agenda_of_busy (s := { s with agenda := rest }) hb
    obtain ⟨u, hc, huagenda, huidle⟩ := exists_complete (table := table)
      (s := { ({ s with agenda := rest } : State).pollStatus 0 with agenda := .waitIdle 0 :: rest }) { htinv with }
    exact .of_happen htinv hagenda hc fun huinv => h.waitIdle_of_idle huinv huagenda huidle
  | succ polls ih =>
    have hagenda := pollStatus_succ_agenda_of_busy (s := { s with agenda := rest }) hb polls
    exact .of_happen htinv hagenda rfl fun huinv =>
      ih htinv hagenda hbusy ((BodyHeld.pollStatus _ polls).busy.trans hbusy) huinv

theorem AgendaEndsWithin.cons (e : Event) : AgendaEndsWithin table (n + e.weight) (e :: rest) := by
  cases e with
  | bus | completion | reset => exact h.cons_of_ne_waitIdle nofun
  | waitIdle polls =>
    intro s hs ha
    cases hb : s.busy with
    | false => exact (h.waitIdle_of_idle hs ha hb).mono (by simp [Event.weight])
    | true => exact h.waitIdle_of_busy polls hs ha hb

end

end

theorem agendaEndsWithin_weight (table : UnsafeTable) (agenda : List Event) :
    AgendaEndsWithin table ((agenda.map Event.weight).sum + 1) agenda := by
  induction agenda with
  | nil => exact agendaEndsWithin_nil
  | cons e rest ih =>
    rw [List.map_cons, List.sum_cons, Nat.add_assoc, Nat.add_comm]
    exact ih.cons e

theorem runOver_ends (table : UnsafeTable) {s : State} (hs : s.Inv) :
    ∃ t, Host.Core.run (coreOver table) s.stepsToEnd s = .next t ∧ t.Inv ∧ t.ended :=
  (agendaEndsWithin_weight table s.agenda s hs rfl).run

/-- Settles O5: each event of the agenda takes at most its weight in steps, and the last completion one more; `core` is
the block with the default table. -/
theorem everyRunEnds : Obligations.EveryRunEnds := by
  refine ⟨fun s hs => ?_, fun table s hs => runOver_ends table hs⟩
  rw [← runOver_default]
  exact runOver_ends defaultTable hs

end Sys2Proof.Machine
end

section
/-! The error record (10_state.md R40, 60_exceptions.md R311, 70 R372): a write the block refuses is recorded, and nothing
but such a write, a STATUS write with bit 2 set and the two resets changes the record. -/

namespace Sys2Proof.Machine

/-- How one event changes ERR or ERRCODE. -/
inductive ErrorRecordChange (s t : State) : Event → Prop where
  | refusedWrite {off : Offset} {size : AccessSize} {v : Word} {c : ErrCause} (h : s.RefusesWrite off size v)
      (ht : t = s.cmdError c) : ErrorRecordChange s t (.bus (.write off size v))
  | statusWrite {v : Word} (hv : v.getLsbD 2 = true) (herr : t.err = false) (hcode : t.errcode = 0) :
      ErrorRecordChange s t (.bus (.write 0x08 .word v))
  | softReset {v : Word} (hv : v.getLsbD 1 = true) (herr : t.err = false) (hcode : t.errcode = 0) :
      ErrorRecordChange s t (.bus (.write 0x04 .word v))
  | hardReset {lost : Option BusAccess} (herr : t.err = false) (hcode : t.errcode = 0) :
      ErrorRecordChange s t (.reset lost)

/-- ERR and ERRCODE are the same. -/
def ErrorRecordKept (s t : State) : Prop := t.err = s.err ∧ t.errcode = s.errcode

section
variable {s t : State} {off : Offset} {size : AccessSize} {v : Word}

/-! ### Host writes -/

theorem hostRegAt_of_unmapped (h : 0x14 ≤ off.toNat) : hostRegAt off = .unmapped := by
  revert off; decide

/-- R45: the aligned offsets below 0x14 are those of the map. -/
theorem mapped_offset_cases (haligned : off.toNat % 4 = 0) (hlt : off.toNat < 0x14) :
    off = 0x00 ∨ off = 0x04 ∨ off = 0x08 ∨ off = 0x0C ∨ off = 0x10 := by
  revert off; decide

theorem busWrite_of_refusesWrite (h : s.RefusesWrite off size v) : ∃ c, s.busWrite off size v = s.cmdError c := by
  by_cases hok : accessOk off size = true
  · obtain ⟨rfl, haligned⟩ := accessOk_iff.1 hok
    obtain h | h | h | ⟨hb, rfl | rfl⟩ | ⟨rfl, hd⟩ := h
    · exact absurd rfl h
    · exact absurd haligned h
    · exact ⟨.badacc, by simp only [State.busWrite, hok, hostRegAt_of_unmapped h, if_true]⟩
    · exact ⟨.busy, if_pos hb⟩
    · exact ⟨.busy, if_pos hb⟩
    · obtain ⟨-, heq⟩ | ⟨-, -, heq⟩ | ⟨-, -, heq⟩ | ⟨-, i, hi, -⟩ := issue_cases s v
      · exact ⟨_, heq⟩
      · exact ⟨_, heq⟩
      · exact ⟨_, heq⟩
      · exact absurd hi (hd i)
  · exact ⟨.badacc, if_neg hok⟩

theorem busWrite_errorRecord (s : State) (off : Offset) (size : AccessSize) (v : Word) :
    ErrorRecordKept s (s.busWrite off size v) ∨
      ErrorRecordChange s (s.busWrite off size v) (.bus (.write off size v)) := by
  by_cases h : s.RefusesWrite off size v
  · obtain ⟨c, hc⟩ := busWrite_of_refusesWrite h
    exact .inr (.refusedWrite h hc)
  · simp only [State.RefusesWrite, not_or, not_not, not_le] at h
    obtain ⟨rfl, haligned, hlt, hbusy, hcmd⟩ := h
    obtain rfl | rfl | rfl | rfl | rfl := mapped_offset_cases haligned hlt
    · exact .inl ⟨rfl, rfl⟩
    · rw [busWrite_ctrl]
      cases hv : v.getLsbD 1 with
      | false =>
        rw [writeCtrl_of_not_srst s hv]
        exact .inl ⟨rfl, rfl⟩
      | true =>
        rw [writeCtrl_of_srst s hv]
        exact .inr (.softReset hv rfl rfl)
    · rw [busWrite_status, writeStatus_eq]
      cases hv : v.getLsbD 2 with
      | false => exact .inl ⟨by simp, by simp⟩
      | true => exact .inr (.statusWrite hv (by simp) (by simp))
    · have hb : s.busy = false := by simpa using hbusy
      obtain ⟨i, hi⟩ : ∃ i, decode v = .command i := by simpa using hcmd
      rw [busWrite_cmd, issue_of_idle hb hi]
      exact .inl ⟨rfl, rfl⟩
    · have hb : s.busy = false := by simpa using hbusy
      have hdata : s.busWrite 0x10 .word v = { s with data := v } := if_neg (Bool.eq_false_iff.1 hb)
      rw [hdata]
      exact .inl ⟨rfl, rfl⟩

/-! ### Events and steps -/

theorem complete_errorRecordKept (h : s.complete exec = .next t) : ErrorRecordKept s t := by
  obtain ⟨-, rfl⟩ | ⟨i, -, -, hexec⟩ := complete_cases h
  · exact ⟨rfl, rfl⟩
  · obtain ⟨K, data, flag, cmpr, rfl⟩ := exec_next hexec
    exact ⟨rfl, rfl⟩

theorem happen_errorRecord {e : Event} (h : s.happen exec e = .next t) :
    ErrorRecordKept s t ∨ ErrorRecordChange s t e := by
  cases e with
  | bus a =>
    cases h
    cases a with
    | read off size => exact .inl ⟨rfl, rfl⟩
    | write off size v => exact busWrite_errorRecord s off size v
  | completion => exact .inl (complete_errorRecordKept h)
  | waitIdle polls =>
    cases h
    obtain ⟨agenda, heq⟩ := pollStatus_cases s polls
    rw [heq]
    exact .inl ⟨rfl, rfl⟩
  | reset lost =>
    cases h
    obtain ⟨reads, draws, heq⟩ := hardReset_cases s lost
    rw [heq]
    exact .inr (.hardReset rfl rfl)

theorem step_errorRecord (h : step s = .next t) (hne : t.err ≠ s.err ∨ t.errcode ≠ s.errcode) :
    ∃ e rest, s.agenda = e :: rest ∧ ErrorRecordChange { s with agenda := rest } t e := by
  have hnot : ¬ ErrorRecordKept s t := fun hkept => hne.elim (absurd hkept.1) (absurd hkept.2)
  obtain ⟨-, hc⟩ | ⟨e, rest, ha, he⟩ := step_cases h
  · exact absurd (complete_errorRecordKept hc) hnot
  · exact ⟨e, rest, ha, (happen_errorRecord he).resolve_left hnot⟩

theorem errcode_of_cmdError {c : ErrCause} (ht : t = s.cmdError c) :
    1 ≤ t.errcode.toNat ∧ t.errcode.toNat ≤ 4 ∧ t = { s with err := true, errcode := t.errcode } := by
  subst ht
  exact ⟨Nat.pos_of_ne_zero fun h => c.code_ne_zero (BitVec.eq_of_toNat_eq h), c.code_le_four, rfl⟩

end

/-- Settles O55: a step that changes the record is one of the four changes; the refused write alone leaves ERR 1. -/
theorem errorRecordChangesOnlyByHost : Obligations.ErrorRecordChangesOnlyByHost := by
  intro s t hstep
  refine ⟨fun hs ht => ?_, fun hs ht => ?_, fun hne => ?_, fun off size v rest ha href => ?_⟩
  · obtain ⟨e, rest, ha, hchange⟩ := step_errorRecord hstep (.inl (by simp [hs, ht]))
    refine ⟨rest, ?_⟩
    cases hchange with
    | refusedWrite _ hc => exact absurd ht (by simp [hc])
    | statusWrite hv => exact .inl ⟨_, hv, ha⟩
    | softReset hv => exact .inr (.inl ⟨_, hv, ha⟩)
    | hardReset => exact .inr (.inr ⟨_, ha⟩)
  · obtain ⟨e, rest, ha, hchange⟩ := step_errorRecord hstep (.inl (by simp [hs, ht]))
    cases hchange with
    | refusedWrite h hc => exact ⟨_, _, _, rest, ha, h, errcode_of_cmdError hc⟩
    | statusWrite _ herr | softReset _ herr | hardReset herr => exact absurd ht (by simp [herr])
  · obtain ⟨e, rest, ha, hchange⟩ := step_errorRecord hstep hne
    refine ⟨rest, ?_⟩
    cases hchange with
    | refusedWrite h hc => exact .inl ⟨_, _, _, ha, h, errcode_of_cmdError hc⟩
    | statusWrite hv herr hcode => exact .inr (.inl ⟨_, hv, ha, herr, hcode⟩)
    | softReset hv herr hcode => exact .inr (.inr (.inl ⟨_, hv, ha, herr, hcode⟩))
    | hardReset herr hcode => exact .inr (.inr (.inr ⟨_, ha, herr, hcode⟩))
  · obtain ⟨c, hc⟩ := busWrite_of_refusesWrite (s := { s with agenda := rest }) href
    rw [step_cons ha] at hstep
    cases hstep
    exact errcode_of_cmdError hc

end Sys2Proof.Machine
end
